-- ==== Sys2Proof/Word.lean ====
section
/-! DEFINITION. The words of CHIP8-CORE (spec/00_scope.md R4, R8): bytes, 16-bit words, 12-bit addresses, and the
4-bit indexes of registers and keys. All values are unsigned. -/

namespace Sys2Proof

/-- A byte: a general register, a timer, a memory cell, the operand `kk` (R4, R62). -/
abbrev Byte := BitVec 8

/-- A 16-bit word: an instruction word, `pc`, `I`, a return address (R4, R8). -/
abbrev Word := BitVec 16

/-- The operand `nnn`: an unsigned 12-bit byte address (R62, R63). -/
abbrev Addr := BitVec 12

/-- Four bits of an instruction word (R9, "Nibble"). -/
abbrev Nibble := BitVec 4

/-- The index of a general register, 0..15 (R11). -/
abbrev RegIdx := Fin 16

/-- A key code, 0x0..0xF (R20). -/
abbrev Key := Fin 16

end Sys2Proof
end

