-- ==== Sys2Proof/Config.lean ====
section
/-! DEFINITION. The parameters D0 leaves open (spec/00_scope.md R5, R7; spec/92_eei_decisions.md D4, D17, D25) and the
free values of the model. The parameters that have a value in one machine are plain data (`Config`), carried by State and
changed by no step, so that a statement about every state is a statement about every configuration (log 104). -/

namespace Sys2Proof

/-- BNNN_MODE (R5, R67): what the words 0xB000..0xBFFF mean. -/
inductive BnnnMode where
  /-- The default: every Bnnn word is an unknown opcode. -/
  | illegal
  /-- Bnnn is `JP V0, addr` (R90). -/
  | jumpV0
  deriving DecidableEq, Repr

/-- The open parameters of R5 that the host chooses before `initialize` (R170, R222). -/
structure Config where
  /-- CPU_HZ: CPU cycles per second, a positive integer (R5, R153). -/
  cpuHz : Nat
  /-- U: units of `elapsed_time` per second, a positive integer (R5, R153). -/
  units : Nat
  /-- FONT: the 80 font bytes, digit d at index 5 * d (R24). -/
  font : Vector Byte 80
  /-- BNNN_MODE (R67). -/
  bnnnMode : BnnnMode
  deriving DecidableEq, Repr

/-- "positive integer" (R5): the only limit the spec sets on the rates. -/
abbrev Config.Ok (c : Config) : Prop := 0 < c.cpuHz ∧ 0 < c.units

/-- TIMER_HZ (R4): fixed by D0. -/
def timerHz : Nat := 60

/-- FREE VALUE (R121, D19; log 19): the byte the random source gives to the k-th executed `RND`. No body: no law holds
of it. -/
opaque Config.randomByte : Nat → Byte

/-- FREE VALUE (R5, N8, D17; log 103): one less than the CPU_HZ of the machine `State.reset` stands for. -/
opaque Config.cpuHzLessOne : Nat

/-- FREE VALUE (R5, N8, D17; log 103): one less than the U of the machine `State.reset` stands for. -/
opaque Config.unitsLessOne : Nat

end Sys2Proof
end

