-- ==== Sys2Proof/Machine/Font.lean ====
section
/-! DEFINITION. The conventional FONT (spec/10_state.md R24): the value of the parameter FONT that the spec supplies from
general knowledge (D25, G2; log 25). -/

namespace Sys2Proof.Machine

/-- Digits 0 to 7 of the conventional table of R24, five bytes each. -/
def conventionalFontLow : List Byte :=
  [0xF0, 0x90, 0x90, 0x90, 0xF0] ++ [0x20, 0x60, 0x20, 0x20, 0x70] ++
  [0xF0, 0x10, 0xF0, 0x80, 0xF0] ++ [0xF0, 0x10, 0xF0, 0x10, 0xF0] ++
  [0x90, 0x90, 0xF0, 0x10, 0x10] ++ [0xF0, 0x80, 0xF0, 0x10, 0xF0] ++
  [0xF0, 0x80, 0xF0, 0x90, 0xF0] ++ [0xF0, 0x10, 0x20, 0x40, 0x40]

/-- Digits 8 to F of the conventional table of R24, five bytes each. -/
def conventionalFontHigh : List Byte :=
  [0xF0, 0x90, 0xF0, 0x90, 0xF0] ++ [0xF0, 0x90, 0xF0, 0x10, 0xF0] ++
  [0xF0, 0x90, 0x90, 0xF0, 0x90] ++ [0xE0, 0x90, 0xE0, 0x90, 0xE0] ++
  [0xF0, 0x80, 0x80, 0x80, 0xF0] ++ [0xE0, 0x90, 0x90, 0x90, 0xE0] ++
  [0xF0, 0x80, 0xF0, 0x80, 0xF0] ++ [0xF0, 0x80, 0xF0, 0x80, 0x80]

/-- The 80 conventional font bytes, digit d at index 5 * d (R24). -/
def conventionalFont : Vector Byte 80 :=
  ⟨(conventionalFontLow ++ conventionalFontHigh).toArray, by decide⟩

end Sys2Proof.Machine
end

