-- ==== Sys2Proof/Machine/Memory.lean ====
section
/-! DEFINITION. `mem` as plain data (spec/10_state.md R18; spec/20_memory.md R40 to R42): the cells that differ from what
an unlisted address reads as, addresses strictly rising. Byte order and widths: spec/20_memory.md R43, R45. -/

namespace Sys2Proof.Machine

/-- Memory: (address, byte) pairs in canonical form (`Memory.Wf`). -/
abbrev Memory := List Host.Cell

/-- MEM_SIZE (R4, R18): addresses 0x000..0xFFF. -/
def memSize : Nat := 4096

/-- What an unlisted address reads as: the reset contents without a program (R28, R46), the conventional font at
0x000..0x04F and zero above it. A machine with another FONT lists the bytes in which it differs (log 106). -/
def Memory.unlisted (a : Nat) : Byte := conventionalFont.toList.getD a 0

/-- The byte at an address. -/
def Memory.read : Memory → Nat → Byte
  | [], a => Memory.unlisted a
  | (c, v) :: m, a => if c = a then v else Memory.read m a

/-- List a byte at its place among rising addresses. -/
def Memory.insert (a : Nat) (b : Byte) : Memory → Memory
  | [] => [(a, b)]
  | (c, v) :: m =>
    if a < c then (a, b) :: (c, v) :: m
    else if a = c then (a, b) :: m
    else (c, v) :: Memory.insert a b m

/-- Take an address off the list. -/
def Memory.erase (a : Nat) (m : Memory) : Memory := m.filter fun c => c.1 ≠ a

/-- `mem[a] <- b` (R42), keeping the canonical form: writing what an unlisted address reads as removes the entry. -/
def Memory.write (m : Memory) (a : Nat) (b : Byte) : Memory :=
  if b = Memory.unlisted a then Memory.erase a m else Memory.insert a b m

/-- Consecutive bytes from an address on. -/
def Memory.writeBytes (m : Memory) (a : Nat) : List Byte → Memory
  | [] => m
  | b :: bs => Memory.writeBytes (Memory.write m a b) (a + 1) bs

/-- The canonical form: addresses of the address space (R40), strictly rising, no entry equal to what an unlisted
address reads as. -/
abbrev Memory.Wf (m : Memory) : Prop :=
  m.Pairwise (fun c d => c.1 < d.1) ∧ ∀ c ∈ m, c.1 < memSize ∧ c.2 ≠ Memory.unlisted c.1

/-- `load_program` after "zero-filled then font-seeded" (R28, R172): the font at 0x000, the image at 0x200, zeros
elsewhere. -/
def Memory.load (font : Vector Byte 80) (image : List Byte) : Memory :=
  Memory.writeBytes (Memory.writeBytes [] 0 font.toList) 0x200 image

end Sys2Proof.Machine
end

