-- ==== Sys2Proof/Machine/State.lean ====
section
/-! DEFINITION. The state of CHIP8-CORE as plain data (spec/10_state.md R10, R29), the reasons a step can stop, and the
state after reset (R28). -/

namespace Sys2Proof.Machine

/-- `run` (R22). -/
inductive RunState where
  /-- No program accepted: no cycle runs. -/
  | uninitialized
  /-- One instruction per cycle. -/
  | running
  /-- A fatal error occurred; until `reset()` every cycle is idle. -/
  | halted
  deriving DecidableEq, Repr

/-- The error records of spec/60_exceptions.md R191. -/
inductive ErrorRecord where
  /-- `initialize` was given more than 3584 bytes (R196). -/
  | romTooLarge (len : Nat)
  /-- An access touched `addr`, the lowest address above 0xFFF among those it needs (R192). -/
  | addressOutOfRange (pc : Word) (addr : Nat)
  /-- `CALL` with 16 entries on the stack (R193). -/
  | stackOverflow (pc : Word)
  /-- `RET` with an empty stack (R194). -/
  | stackUnderflow (pc : Word)
  /-- The fetched word matches no instruction (R195). -/
  | unknownOpcode (pc : Word) (w : Word)
  deriving DecidableEq, Repr

/-- One step owed by an `advance` call (spec/45_timers_clock.md R155). -/
inductive Slot where
  /-- One CPU cycle (R80). -/
  | cycle
  /-- One timer tick (R150). -/
  | tick
  deriving DecidableEq, Repr

/-- The calls of the host that change the block (spec/46_host_interface.md R170, R179). A key code is 0x0..0xF by its
type: the interface gives a code above 15 no move (R175). -/
inductive HostCall where
  /-- `initialize(program_bytes)` (R171). -/
  | load (bytes : List Byte)
  /-- `reset()` (R173). -/
  | reset
  /-- `advance(elapsed_time)` (R154). -/
  | advance (dt : Nat)
  /-- `set_key_state(code, pressed)` (R175). -/
  | setKeyState (code : Key) (pressed : Bool)
  deriving DecidableEq, Repr

/-- The Display Buffer: 32 rows of 64 pixels, `fb[y][x]` (R19, R130). -/
abbrev DisplayBuffer := Vector (Vector Bool 64) 32

/-- The state tuple of R10, and after it the model's own fields: the configuration (log 104), the counter of random
bytes (log 19), the steps owed by the `advance` in progress and the host's calls to come (log 102). -/
structure State where
  /-- Memory (R18). -/
  mem : Memory
  /-- General registers V0..VF (R11, R12). -/
  V : Vector Byte 16
  /-- Index register: 16 bits stored, 12 effective (R13). -/
  I : Word
  /-- Program counter: the address of the next instruction (R14). -/
  pc : Word
  /-- Call stack, oldest entry first (R17). -/
  stack : List Word
  /-- Display Buffer (R19). -/
  fb : DisplayBuffer
  /-- Keypad State, `true` while the key is down (R20). -/
  keys : Vector Bool 16
  /-- Delay timer (R21). -/
  DT : Byte
  /-- Sound timer (R21). -/
  ST : Byte
  /-- Engine run state (R22). -/
  run : RunState
  /-- The register awaiting a key (R23). -/
  wait : Option RegIdx
  /-- The latched key-press edge (R23). -/
  edge : Option Key
  /-- The last fatal or load error (R25). -/
  err : Option ErrorRecord
  /-- Clock phase: elapsed time times CPU_HZ, below U (R26). -/
  cpuAcc : Nat
  /-- Clock phase: elapsed time times 60, below U (R26). -/
  tmrAcc : Nat
  /-- The program image last accepted (R27). -/
  image : List Byte
  /-- The configuration (R5, R170); no step changes it. -/
  cfg : Config
  /-- How many random bytes have been drawn (R121). -/
  draws : Nat
  /-- Cycles and ticks still owed by the `advance` call in progress, in due order (R155). -/
  slots : List Slot
  /-- Host calls still to come, in order (R179). DESIGN CHOICE: a finite list, so every run falls silent in the end, where
  R181 leaves open whether the host ever stops calling (log 109). -/
  inbox : List HostCall
  deriving DecidableEq, Repr

/-- Why the machine stops: never. Every error a cycle can raise is taken as spec/60_exceptions.md R197 describes, which
is a next state, so no step of this machine ends in a fault (log 108). -/
inductive Fault where
  deriving DecidableEq, Repr

/-- Why the model gives an instruction no meaning. -/
inductive Refusal where
  /-- The instruction's meaning is not written: raised by `exec`'s arm alone, safe. No arm raises it. -/
  | notModelled (mnemonic : String)
  deriving DecidableEq, Repr

/-- What a meaning answers. -/
abbrev Result := Host.Outcome State Fault Refusal

/-- All pixels off (R28, R132). -/
def DisplayBuffer.allOff : DisplayBuffer := Vector.replicate 32 (Vector.replicate 64 false)

/-- The configuration at reset: CPU_HZ and U free and positive (log 103), the conventional FONT (log 25), BNNN_MODE at
the spec's default (log 4). -/
def Config.atReset : Config where
  cpuHz := Config.cpuHzLessOne + 1
  units := Config.unitsLessOne + 1
  font := conventionalFont
  bnnnMode := .illegal

/-- The machine right after reset (R28, R221), with the empty program image (log 101). -/
def State.reset : State where
  mem := []
  V := Vector.replicate 16 0
  I := 0
  pc := 0x200
  stack := []
  fb := DisplayBuffer.allOff
  keys := Vector.replicate 16 false
  DT := 0
  ST := 0
  run := .running
  wait := none
  edge := none
  err := none
  cpuAcc := 0
  tmrAcc := 0
  image := []
  cfg := Config.atReset
  draws := 0
  slots := []
  inbox := []

end Sys2Proof.Machine
end

