-- ==== Sys2Proof/Machine/Ops.lean ====
section
/-! DEFINITION. The named operations over registers, `pc`, the call stack and memory, and taking a fatal error
(spec/10_state.md, spec/20_memory.md, spec/40_flow_control.md R82, spec/60_exceptions.md R197). Every read and write of
the state goes through them. -/

namespace Sys2Proof.Machine

/-! ## Registers and pc -/

/-- `V[x]` (R11). -/
def State.reg (s : State) (x : RegIdx) : Byte := s.V[x]

/-- `V[x] <- b` (R11). -/
def State.setReg (s : State) (x : RegIdx) (b : Byte) : State := { s with V := s.V.set x b }

/-- `I <- w` (R13). -/
def State.setI (s : State) (w : Word) : State := { s with I := w }

/-- `pc <- w` (R14). -/
def State.setPc (s : State) (w : Word) : State := { s with pc := w }

/-- `pc <- next`: the default advance by 2 (R82). -/
def State.toNext (s : State) : State := s.setPc (s.pc + 2)

/-- `pc <- pc + 4` if the condition holds, else `pc <- pc + 2` (R15, R92). The skipped bytes are not read. -/
def State.skipIf (s : State) (c : Bool) : State := s.setPc (if c then s.pc + 4 else s.pc + 2)

/-! ## Fatal errors -/

/-- Entry into Halted (R197): `run` and `err` are written, nothing else changes; `pc` keeps the address of the failing
instruction (R198, D12; log 12). -/
def State.halt (s : State) (e : ErrorRecord) : State := { s with run := .halted, err := some e }

/-- `raise E(info)` (R8): the failing instruction makes no change of its own and the engine enters Halted. -/
def raise (s : State) (e : ErrorRecord) : Result := .next (s.halt e)

/-! ## Call stack -/

/-- STACK_DEPTH (R4). -/
def stackDepth : Nat := 16

/-- `push(a)` on a stack that is not full (R17): append. -/
def State.push (s : State) (a : Word) : State := { s with stack := s.stack ++ [a] }

/-- The stack without its last entry (R17). -/
def State.dropTop (s : State) : State := { s with stack := s.stack.dropLast }

/-- The last appended entry; `none` on an empty stack (R17). -/
def State.top (s : State) : Option Word := s.stack.getLast?

/-! ## Memory -/

/-- The byte of `mem` at an address of the address space (R41). -/
def State.byteAt (s : State) (a : Nat) : Byte := s.mem.read a

/-- The lowest address above 0xFFF among the `n` addresses from `base` on, if there is one (R41, R42, R192): naturals,
not reduced (R40, R55). -/
def firstOutOfRange (base n : Nat) : Option Nat :=
  if 0 < n ∧ 0xFFF < base + n - 1 then some (max base 0x1000) else none

/-- Check the whole range of an access before anything is written (R103, R104, R105, R133, R198): either
`AddressOutOfRange(pc, addr)` or what the instruction goes on to do. -/
def guardRange (s : State) (base n : Nat) (go : Result) : Result :=
  match firstOutOfRange base n with
  | some a => raise s (.addressOutOfRange s.pc a)
  | none => go

/-- The `n` bytes from `base` on, in order (R45). -/
def State.bytesAt (s : State) (base n : Nat) : List Byte := (List.range n).map fun i => s.byteAt (base + i)

/-- Bytes written one after another from `base` on (R42, R45). -/
def State.storeBytes (s : State) (base : Nat) (bs : List Byte) : State :=
  { s with mem := s.mem.writeBytes base bs }

/-- The instruction word at `pc`: `{mem[pc], mem[pc+1]}`, big-endian (R43, R81). -/
def State.wordAtPc (s : State) : Word := s.byteAt s.pc.toNat ++ s.byteAt (s.pc.toNat + 1)

end Sys2Proof.Machine
end

