-- ==== Sys2Proof/Machine/Operands.lean ====
section
/-! DEFINITION. Operand forms beyond a plain register (spec/20_memory.md R55; spec/41_load_move.md R103 to R107;
spec/43_display_blitter.md R131, R133; spec/44_timer_keypad_instr.md R143). -/

namespace Sys2Proof.Machine

/-- `v & 0x0F` as an index: the digit of `LD F, Vx` (R106) and the key of `SKP`, `SKNP` (R143, D9; log 9). -/
def lowNibble (v : Byte) : Fin 16 := ⟨v.toNat % 16, Nat.mod_lt _ (by decide)⟩

/-- A 12-bit operand entering a 16-bit register: zero-extended (R63). -/
def zext16 (nnn : Addr) : Word := nnn.zeroExtend 16

/-- The address `I + i`, the only data addressing mode (R55, R107): a natural, not reduced. -/
def State.dataAddr (s : State) (i : Nat) : Nat := s.I.toNat + i

/-- The base address of the font sprite of a digit: 5 * digit (R24, R106). -/
def fontAddr (d : Fin 16) : Word := BitVec.ofNat 16 (5 * d.val)

/-- Hundreds, tens, ones, one digit a byte (R105). -/
def bcdDigits (v : Byte) : List Byte :=
  [BitVec.ofNat 8 (v.toNat / 100), BitVec.ofNat 8 (v.toNat / 10 % 10), BitVec.ofNat 8 (v.toNat % 10)]

/-- V0..Vx in order: what the block store writes (R104). -/
def State.regsUpTo (s : State) (x : RegIdx) : List Byte := s.V.toList.take (x.val + 1)

/-- V0..Vx loaded from consecutive bytes, the registers above kept (R103). -/
def State.loadRegs (s : State) (x : RegIdx) : State :=
  { s with V := Vector.ofFn fun i => if i ≤ x then s.byteAt (s.dataAddr i.val) else s.reg i }

/-- Is the key that a register names down? (R143) -/
def State.keyDown (s : State) (x : RegIdx) : Bool := s.keys[lowNibble (s.reg x)]

/-- The n sprite bytes from `I` on, first row on top (R131). -/
def State.spriteRows (s : State) (n : Fin 16) : List Byte := s.bytesAt s.I.toNat n.val

/-- The column of a sprite's origin: Vx mod 64 (R133). -/
def originX (v : Byte) : Nat := v.toNat % 64

/-- The row of a sprite's origin: Vy mod 32 (R133). -/
def originY (v : Byte) : Nat := v.toNat % 32

end Sys2Proof.Machine
end

