-- ==== Sys2Proof/Machine/Flags.lean ====
section
/-! DEFINITION. The flag computations (spec/10_state.md R12; spec/42_alu.md R110, R112, R117 to R120, R123). VF is
written with 0x00 or 0x01, never another value. -/

namespace Sys2Proof.Machine

/-- VF = V[15], the flag register (R12). -/
def VF : RegIdx := 0xF

/-- The byte a flag is written as (R12). -/
def flagByte (b : Bool) : Byte := if b then 1 else 0

/-- Carry of an 8-bit addition: the exact sum exceeds 255 (R112, R123). -/
def carryOut (a b : Byte) : Bool := decide (255 < a.toNat + b.toNat)

/-- No borrow in a - b: a >= b (R117, R118, R123). -/
def noBorrow (a b : Byte) : Bool := decide (b.toNat ≤ a.toNat)

/-- The bit `SHR` shifts out: bit 0 (R119). -/
def bitOutRight (a : Byte) : Bool := a.getLsbD 0

/-- The bit `SHL` shifts out: bit 7 (R120). -/
def bitOutLeft (a : Byte) : Bool := a.getLsbD 7

/-- VF first, the result register second (R110, D6; log 6): with x = F the result is what VF holds. -/
def State.setFlagThen (s : State) (x : RegIdx) (flag : Bool) (result : Byte) : State :=
  (s.setReg VF (flagByte flag)).setReg x result

end Sys2Proof.Machine
end

