-- ==== Sys2Proof/Machine/Alu.lean ====
section
/-! DEFINITION. Arithmetic, logic, shifts and random (spec/42_alu.md). All sources are read before any write (R110);
arithmetic wraps modulo 256 (R123). -/

namespace Sys2Proof.Machine

/-- `ADD Vx, byte` (R111): wrapping, no flag. -/
def execAddByte (x : RegIdx) (kk : Byte) (s : State) : Result := .next (s.setReg x (s.reg x + kk)).toNext

/-- `ADD Vx, Vy` (R112): VF = carry. -/
def execAddReg (x y : RegIdx) (s : State) : Result :=
  .next (s.setFlagThen x (carryOut (s.reg x) (s.reg y)) (s.reg x + s.reg y)).toNext

/-- `ADD I, Vx` (R113): wraps in the 12-bit space, no flag (D5; log 5). -/
def execAddIVx (x : RegIdx) (s : State) : Result :=
  .next (s.setI (BitVec.ofNat 16 ((s.I.toNat + (s.reg x).toNat) % 0x1000))).toNext

/-- `OR Vx, Vy` (R114): no flag (D7; log 7). -/
def execOrReg (x y : RegIdx) (s : State) : Result := .next (s.setReg x (s.reg x ||| s.reg y)).toNext

/-- `AND Vx, Vy` (R115): no flag (D7; log 7). -/
def execAndReg (x y : RegIdx) (s : State) : Result := .next (s.setReg x (s.reg x &&& s.reg y)).toNext

/-- `XOR Vx, Vy` (R116): no flag (D7; log 7). -/
def execXorReg (x y : RegIdx) (s : State) : Result := .next (s.setReg x (s.reg x ^^^ s.reg y)).toNext

/-- `SUB Vx, Vy` (R117): VF = no borrow of Vx - Vy. -/
def execSub (x y : RegIdx) (s : State) : Result :=
  .next (s.setFlagThen x (noBorrow (s.reg x) (s.reg y)) (s.reg x - s.reg y)).toNext

/-- `SUBN Vx, Vy` (R118): VF = no borrow of Vy - Vx; the destination is Vx. -/
def execSubn (x y : RegIdx) (s : State) : Result :=
  .next (s.setFlagThen x (noBorrow (s.reg y) (s.reg x)) (s.reg y - s.reg x)).toNext

/-- `SHR Vx` (R119): the source is Vx; the register of the `y` field is neither read nor written. -/
def execShr (x _y : RegIdx) (s : State) : Result :=
  .next (s.setFlagThen x (bitOutRight (s.reg x)) (s.reg x >>> 1)).toNext

/-- `SHL Vx` (R120): the source is Vx; the register of the `y` field is neither read nor written. -/
def execShl (x _y : RegIdx) (s : State) : Result :=
  .next (s.setFlagThen x (bitOutLeft (s.reg x)) (s.reg x <<< 1)).toNext

/-- `draw_byte()` (R121, D19; log 19): the next byte of the random source, a free value. -/
def State.drawByte (s : State) : Byte := Config.randomByte s.draws

/-- The random byte is consumed (R121): the model's counter advances, no state of the block changes. -/
def State.consumeByte (s : State) : State := { s with draws := s.draws + 1 }

/-- `RND Vx, byte` (R122). -/
def execRnd (x : RegIdx) (kk : Byte) (s : State) : Result :=
  .next (s.consumeByte.setReg x (s.drawByte &&& kk)).toNext

end Sys2Proof.Machine
end

