-- ==== Sys2Proof/Machine/DisplayBlitter.lean ====
section
/-! DEFINITION. The Display Buffer and the sprite blitter (spec/43_display_blitter.md): CLS, DRW and the blit. -/

namespace Sys2Proof.Machine

/-- `fb[y][x]`: column 0 leftmost, row 0 topmost (R130, D24; log 24). -/
def DisplayBuffer.pixel (fb : DisplayBuffer) (x : Fin 64) (y : Fin 32) : Bool := fb[y][x]

/-- `fb[y][x] <- fb[y][x] ^ 1` (R134). -/
def DisplayBuffer.toggle (fb : DisplayBuffer) (x : Fin 64) (y : Fin 32) : DisplayBuffer :=
  fb.set y (fb[y].set x (!fb.pixel x y))

/-- A pixel's place: column and row. -/
abbrev Pixel := Fin 64 × Fin 32

/-- Where column `c` of sprite row `r` lands: per-pixel wrap on both axes (R134). -/
def spritePixel (x0 y0 r c : Nat) : Pixel :=
  (⟨(x0 + c) % 64, Nat.mod_lt _ (by decide)⟩, ⟨(y0 + r) % 32, Nat.mod_lt _ (by decide)⟩)

/-- The pixels one row byte toggles, left to right: bit 7 is the leftmost pixel (R131, R134). -/
def rowPixels (x0 y0 r : Nat) (row : Byte) : List Pixel :=
  ((List.range 8).filter fun c => row.getLsbD (7 - c)).map fun c => spritePixel x0 y0 r c

/-- The pixels a sprite toggles, rows `r`, `r + 1`, ... from the top (R134). -/
def spritePixels (x0 y0 : Nat) : Nat → List Byte → List Pixel
  | _, [] => []
  | r, row :: rows => rowPixels x0 y0 r row ++ spritePixels x0 y0 (r + 1) rows

/-- Toggle pixels one after another; the flag says whether one of them was on (R134, R135). -/
def blitPixels : DisplayBuffer → Bool → List Pixel → DisplayBuffer × Bool
  | fb, hit, [] => (fb, hit)
  | fb, hit, p :: ps => blitPixels (fb.toggle p.1 p.2) (hit || fb.pixel p.1 p.2) ps

/-- `blit(x0, y0, rows) -> collided` (R134). -/
def blit (fb : DisplayBuffer) (x0 y0 : Nat) (rows : List Byte) : DisplayBuffer × Bool :=
  blitPixels fb false (spritePixels x0 y0 0 rows)

/-- `fb <- b` (R19). -/
def State.setFb (s : State) (b : DisplayBuffer) : State := { s with fb := b }

/-- `CLS` (R132): VF is not written. -/
def execCls (s : State) : Result := .next (s.setFb DisplayBuffer.allOff).toNext

/-- `DRW` once its range is known to be good: the coordinates and the rows are read first, VF is written last. -/
def State.draw (s : State) (x y : RegIdx) (n : Fin 16) : State :=
  let result := blit s.fb (originX (s.reg x)) (originY (s.reg y)) (s.spriteRows n)
  (s.setFb result.1).setReg VF (flagByte result.2)

/-- `DRW Vx, Vy, n` (R133); n = 0 reads and draws nothing and clears VF (D30; log 30). -/
def execDrw (x y : RegIdx) (n : Fin 16) (s : State) : Result :=
  guardRange s s.I.toNat n.val (.next (s.draw x y n).toNext)

end Sys2Proof.Machine
end

