-- ==== Sys2Proof/Syntax.lean ====
section
/-! DEFINITION. The instructions of CHIP8-CORE: one constructor per row of spec/opcode_table.json (spec/30_encoding.md
R64, and R67 for the optional row), with the operands of R62. Operand widths are in the types, so no operand can be out
of its range. -/

namespace Sys2Proof

/-- The 33 instruction forms of R64 and the optional `JP V0, addr` of R67. -/
inductive Instr where
  /-- `CLS` (R132). -/
  | cls
  /-- `RET` (R83). -/
  | ret
  /-- `JP addr` (R84). -/
  | jpAddr (nnn : Addr)
  /-- `CALL addr` (R85). -/
  | callAddr (nnn : Addr)
  /-- `SE Vx, byte` (R86). -/
  | seByte (x : RegIdx) (kk : Byte)
  /-- `SNE Vx, byte` (R87). -/
  | sneByte (x : RegIdx) (kk : Byte)
  /-- `SE Vx, Vy` (R88). -/
  | seReg (x y : RegIdx)
  /-- `LD Vx, byte` (R100). -/
  | ldByte (x : RegIdx) (kk : Byte)
  /-- `ADD Vx, byte` (R111). -/
  | addByte (x : RegIdx) (kk : Byte)
  /-- `LD Vx, Vy` (R101). -/
  | ldReg (x y : RegIdx)
  /-- `OR Vx, Vy` (R114). -/
  | orReg (x y : RegIdx)
  /-- `AND Vx, Vy` (R115). -/
  | andReg (x y : RegIdx)
  /-- `XOR Vx, Vy` (R116). -/
  | xorReg (x y : RegIdx)
  /-- `ADD Vx, Vy` (R112). -/
  | addReg (x y : RegIdx)
  /-- `SUB Vx, Vy` (R117). -/
  | sub (x y : RegIdx)
  /-- `SHR Vx` (R119); the `y` field is present in the word and ignored (R69). -/
  | shr (x y : RegIdx)
  /-- `SUBN Vx, Vy` (R118). -/
  | subn (x y : RegIdx)
  /-- `SHL Vx` (R120); the `y` field is present in the word and ignored (R69). -/
  | shl (x y : RegIdx)
  /-- `SNE Vx, Vy` (R89). -/
  | sneReg (x y : RegIdx)
  /-- `LD I, addr` (R102). -/
  | ldIAddr (nnn : Addr)
  /-- `RND Vx, byte` (R122). -/
  | rnd (x : RegIdx) (kk : Byte)
  /-- `DRW Vx, Vy, n` (R133); `n` counts sprite bytes, 0..15. -/
  | drw (x y : RegIdx) (n : Fin 16)
  /-- `SKP Vx` (R143). -/
  | skp (x : RegIdx)
  /-- `SKNP Vx` (R144). -/
  | sknp (x : RegIdx)
  /-- `LD Vx, DT` (R140). -/
  | ldVxDT (x : RegIdx)
  /-- `LD Vx, K` (R145). -/
  | ldVxK (x : RegIdx)
  /-- `LD DT, Vx` (R141). -/
  | ldDTVx (x : RegIdx)
  /-- `LD ST, Vx` (R142). -/
  | ldSTVx (x : RegIdx)
  /-- `ADD I, Vx` (R113). -/
  | addIVx (x : RegIdx)
  /-- `LD F, Vx` (R106). -/
  | ldFVx (x : RegIdx)
  /-- `LD B, Vx` (R105). -/
  | ldBVx (x : RegIdx)
  /-- `LD [I], Vx` (R104): the block store. -/
  | ldMemVx (x : RegIdx)
  /-- `LD Vx, [I]` (R103): the block load. -/
  | ldVxMem (x : RegIdx)
  /-- `JP V0, addr` (R90): an instruction only with BNNN_MODE = jump_v0 (R67). -/
  | jpV0 (nnn : Addr)
  deriving DecidableEq, Repr

end Sys2Proof
end

