-- ==== Sys2Proof/WellFormed.lean ====
section
/-! DEFINITION. Which terms of `Instr` are instructions of the machine. The operand ranges of spec/30_encoding.md R62
are in the types of the operands; the one check left is R67: `JP V0, addr` exists only with BNNN_MODE = jump_v0. -/

namespace Sys2Proof

/-- `i` is an instruction of a machine whose BNNN_MODE is `m` (R64, R67). -/
def WellFormed (m : BnnnMode) (i : Instr) : Bool :=
  match i with
  | .cls | .ret | .jpAddr _ | .callAddr _ => true
  | .seByte _ _ | .sneByte _ _ | .seReg _ _ | .sneReg _ _ => true
  | .ldByte _ _ | .ldReg _ _ | .ldIAddr _ => true
  | .addByte _ _ | .orReg _ _ | .andReg _ _ | .xorReg _ _ => true
  | .addReg _ _ | .sub _ _ | .subn _ _ | .shr _ _ | .shl _ _ => true
  | .rnd _ _ | .drw _ _ _ | .skp _ | .sknp _ => true
  | .ldVxDT _ | .ldVxK _ | .ldDTVx _ | .ldSTVx _ => true
  | .addIVx _ | .ldFVx _ | .ldBVx _ | .ldMemVx _ | .ldVxMem _ => true
  | .jpV0 _ => m == .jumpV0

end Sys2Proof
end

