-- ==== Sys2Proof/Decode.lean ====
section
/-! DEFINITION. The decoder, total on every word and on every list of bytes, and after it the encoder
(spec/30_encoding.md R60 to R69). The bit patterns are from general knowledge and adopted by the spec's decision D32
(log 32); decoding is strict (R65, D21; log 21). -/

namespace Sys2Proof

/-- Why bytes are no instruction. -/
inductive Reject where
  /-- The word matches no row of R64, or is Bnnn with BNNN_MODE = illegal (R66, R67). -/
  | unknownOpcode (w : Word)
  /-- Fewer than the two bytes of an instruction are given (R60). -/
  | truncated
  deriving DecidableEq, Repr

/-- The nibble `w[4k+3 : 4k]` (R61). -/
def nibble (k : Nat) (w : Word) : Nibble := w.extractLsb' (4 * k) 4

/-- The word of four nibbles, the first the most significant (R61). -/
def joinNibbles (a b c d : Nibble) : Word := a ++ b ++ c ++ d

/-- The register index, count or key code a nibble stands for (R62). -/
def Nibble.idx (b : Nibble) : Fin 16 := b.toFin

/-- The nibble of an index. -/
def Nibble.ofIdx (x : Fin 16) : Nibble := BitVec.ofFin x

/-- The rows 8xy_ of R64, selected by the last nibble. -/
def decodeAlu (x y : RegIdx) (d : Nibble) : Option Instr :=
  match d with
  | 0x0#4 => some (.ldReg x y)
  | 0x1#4 => some (.orReg x y)
  | 0x2#4 => some (.andReg x y)
  | 0x3#4 => some (.xorReg x y)
  | 0x4#4 => some (.addReg x y)
  | 0x5#4 => some (.sub x y)
  | 0x6#4 => some (.shr x y)
  | 0x7#4 => some (.subn x y)
  | 0xE#4 => some (.shl x y)
  | _ => none

/-- The rows Ex__ of R64, selected by the low byte. -/
def decodeKey (x : RegIdx) (kk : Byte) : Option Instr :=
  match kk with
  | 0x9E#8 => some (.skp x)
  | 0xA1#8 => some (.sknp x)
  | _ => none

/-- The rows Fx__ of R64, selected by the low byte. -/
def decodeMisc (x : RegIdx) (kk : Byte) : Option Instr :=
  match kk with
  | 0x07#8 => some (.ldVxDT x)
  | 0x0A#8 => some (.ldVxK x)
  | 0x15#8 => some (.ldDTVx x)
  | 0x18#8 => some (.ldSTVx x)
  | 0x1E#8 => some (.addIVx x)
  | 0x29#8 => some (.ldFVx x)
  | 0x33#8 => some (.ldBVx x)
  | 0x55#8 => some (.ldMemVx x)
  | 0x65#8 => some (.ldVxMem x)
  | _ => none

/-- The rows 00__ of R64: the three low nibbles are fixed. -/
def decodeZero (nnn : Addr) : Option Instr :=
  match nnn with
  | 0x0E0#12 => some .cls
  | 0x0EE#12 => some .ret
  | _ => none

/-- The row of R64 (or the optional row of R67) that four nibbles match, "by matching fixed nibble patterns"; `none`
where they match no row. -/
def decodeNibbles (a b c d : Nibble) : Option Instr :=
  let x := b.idx
  let y := c.idx
  let kk : Byte := c ++ d
  let nnn : Addr := b ++ c ++ d
  match a with
  | 0x0#4 => decodeZero nnn
  | 0x1#4 => some (.jpAddr nnn)
  | 0x2#4 => some (.callAddr nnn)
  | 0x3#4 => some (.seByte x kk)
  | 0x4#4 => some (.sneByte x kk)
  | 0x5#4 => if d = 0x0#4 then some (.seReg x y) else none
  | 0x6#4 => some (.ldByte x kk)
  | 0x7#4 => some (.addByte x kk)
  | 0x8#4 => decodeAlu x y d
  | 0x9#4 => if d = 0x0#4 then some (.sneReg x y) else none
  | 0xA#4 => some (.ldIAddr nnn)
  | 0xB#4 => some (.jpV0 nnn)
  | 0xC#4 => some (.rnd x kk)
  | 0xD#4 => some (.drw x y d.idx)
  | 0xE#4 => decodeKey x kk
  | 0xF#4 => decodeMisc x kk
  | _ => none

/-- The row of spec/opcode_table.json that a word matches, the optional row included. -/
def decodeRow (w : Word) : Option Instr :=
  decodeNibbles (nibble 3 w) (nibble 2 w) (nibble 1 w) (nibble 0 w)

/-- The decoder of a machine whose BNNN_MODE is `m` (R65 to R68): exactly one row, or an unknown opcode. -/
def decode (m : BnnnMode) (w : Word) : Except Reject Instr :=
  match decodeRow w with
  | some i => if WellFormed m i then .ok i else .error (.unknownOpcode w)
  | none => .error (.unknownOpcode w)

/-- The instruction at the head of a list of bytes, big-endian (R43, R60), with the bytes after it. -/
def decodeBytes (m : BnnnMode) : List Byte → Except Reject (Instr × List Byte)
  | hi :: lo :: rest =>
    match decode m (hi ++ lo) with
    | .ok i => .ok (i, rest)
    | .error r => .error r
  | [_] => .error .truncated
  | [] => .error .truncated

/-! ## The opcode map as match and mask -/

/-- The (match, mask) columns of R64, rows 1 to 33 in order: `w` is the instruction iff `w & mask = match`. -/
def opcodeRows : List (Word × Word) :=
  [(0x00E0, 0xFFFF), (0x00EE, 0xFFFF), (0x1000, 0xF000), (0x2000, 0xF000), (0x3000, 0xF000), (0x4000, 0xF000)] ++
  [(0x5000, 0xF00F), (0x6000, 0xF000), (0x7000, 0xF000), (0x8000, 0xF00F), (0x8001, 0xF00F), (0x8002, 0xF00F)] ++
  [(0x8003, 0xF00F), (0x8004, 0xF00F), (0x8005, 0xF00F), (0x8006, 0xF00F), (0x8007, 0xF00F), (0x800E, 0xF00F)] ++
  [(0x9000, 0xF00F), (0xA000, 0xF000), (0xC000, 0xF000), (0xD000, 0xF000), (0xE09E, 0xF0FF), (0xE0A1, 0xF0FF)] ++
  [(0xF007, 0xF0FF), (0xF00A, 0xF0FF), (0xF015, 0xF0FF), (0xF018, 0xF0FF), (0xF01E, 0xF0FF), (0xF029, 0xF0FF)] ++
  [(0xF033, 0xF0FF), (0xF055, 0xF0FF), (0xF065, 0xF0FF)]

/-- The rows of a machine whose BNNN_MODE is `m`: R67 adds (0xB000, 0xF000) with jump_v0. -/
def rowsOf (m : BnnnMode) : List (Word × Word) :=
  match m with
  | .illegal => opcodeRows
  | .jumpV0 => opcodeRows ++ [(0xB000, 0xF000)]

/-- `w & mask = match` (R64). -/
def matchesRow (w : Word) (row : Word × Word) : Bool := w &&& row.2 == row.1

/-! ## The encoder -/

/-- Format A: the major opcode and `nnn` (R61). -/
def encodeA (op : Nibble) (nnn : Addr) : Word := op ++ nnn

/-- Format XK: the major opcode, `x` and `kk` (R61). -/
def encodeXK (op : Nibble) (x : RegIdx) (kk : Byte) : Word := op ++ Nibble.ofIdx x ++ kk

/-- Formats XY and XYN: the major opcode, `x`, `y` and the last nibble (R61). -/
def encodeXY (op : Nibble) (x y : RegIdx) (last : Nibble) : Word :=
  joinNibbles op (Nibble.ofIdx x) (Nibble.ofIdx y) last

/-- The word of an instruction (R64); `shr` and `shl` keep their ignored `y` field (R69). -/
def encode (i : Instr) : Word :=
  match i with
  | .cls => 0x00E0#16
  | .ret => 0x00EE#16
  | .jpAddr nnn => encodeA 0x1 nnn
  | .callAddr nnn => encodeA 0x2 nnn
  | .seByte x kk => encodeXK 0x3 x kk
  | .sneByte x kk => encodeXK 0x4 x kk
  | .seReg x y => encodeXY 0x5 x y 0x0
  | .ldByte x kk => encodeXK 0x6 x kk
  | .addByte x kk => encodeXK 0x7 x kk
  | .ldReg x y => encodeXY 0x8 x y 0x0
  | .orReg x y => encodeXY 0x8 x y 0x1
  | .andReg x y => encodeXY 0x8 x y 0x2
  | .xorReg x y => encodeXY 0x8 x y 0x3
  | .addReg x y => encodeXY 0x8 x y 0x4
  | .sub x y => encodeXY 0x8 x y 0x5
  | .shr x y => encodeXY 0x8 x y 0x6
  | .subn x y => encodeXY 0x8 x y 0x7
  | .shl x y => encodeXY 0x8 x y 0xE
  | .sneReg x y => encodeXY 0x9 x y 0x0
  | .ldIAddr nnn => encodeA 0xA nnn
  | .rnd x kk => encodeXK 0xC x kk
  | .drw x y n => encodeXY 0xD x y (Nibble.ofIdx n)
  | .skp x => encodeXK 0xE x 0x9E
  | .sknp x => encodeXK 0xE x 0xA1
  | .ldVxDT x => encodeXK 0xF x 0x07
  | .ldVxK x => encodeXK 0xF x 0x0A
  | .ldDTVx x => encodeXK 0xF x 0x15
  | .ldSTVx x => encodeXK 0xF x 0x18
  | .addIVx x => encodeXK 0xF x 0x1E
  | .ldFVx x => encodeXK 0xF x 0x29
  | .ldBVx x => encodeXK 0xF x 0x33
  | .ldMemVx x => encodeXK 0xF x 0x55
  | .ldVxMem x => encodeXK 0xF x 0x65
  | .jpV0 nnn => encodeA 0xB nnn

/-- The two bytes of an instruction in memory order (R43, R180): the high byte at the lower address. -/
def encodeBytes (i : Instr) : List Byte :=
  [(encode i).extractLsb' 8 8, (encode i).extractLsb' 0 8]

/-- The word a row of spec/opcode_table.json stands for, `w` numbered as the table numbers it: bit 0 the least
significant bit of the one 16-bit word; bits from `nbits` on are 0. -/
def tableWord (nbits w : Nat) : Word := BitVec.ofNat 16 (w % 2 ^ nbits)

/-- The instruction the decoder reads from the word `w` of the table, laid out big-endian as the hardware stores it.
Read with BNNN_MODE = jump_v0, under which every row of the table is an instruction (log 105). -/
def decodeTableWord (nbits w : Nat) : Option Instr :=
  match decodeBytes .jumpV0 [(tableWord nbits w).extractLsb' 8 8, (tableWord nbits w).extractLsb' 0 8] with
  | .ok (i, _) => some i
  | .error _ => none

end Sys2Proof
end

