-- ==== Sys2Proof/Machine/FlowControl.lean ====
section
/-! DEFINITION. Control transfer (spec/40_flow_control.md): RET, JP, CALL, the four compare-and-skip forms, and the
optional JP V0. -/

namespace Sys2Proof.Machine

/-- `RET` (R83): pop the call stack into `pc`; `StackUnderflow` when it is empty. -/
def execRet (s : State) : Result :=
  match s.top with
  | none => raise s (.stackUnderflow s.pc)
  | some a => .next (s.dropTop.setPc a)

/-- `JP addr` (R84). -/
def execJpAddr (nnn : Addr) (s : State) : Result := .next (s.setPc (zext16 nnn))

/-- `CALL addr` (R85): push the address after the call, not reduced to 12 bits; `StackOverflow` at depth 16. -/
def execCallAddr (nnn : Addr) (s : State) : Result :=
  if stackDepth ≤ s.stack.length then raise s (.stackOverflow s.pc)
  else .next ((s.push (s.pc + 2)).setPc (zext16 nnn))

/-- `SE Vx, byte` (R86). -/
def execSeByte (x : RegIdx) (kk : Byte) (s : State) : Result := .next (s.skipIf (s.reg x == kk))

/-- `SNE Vx, byte` (R87). -/
def execSneByte (x : RegIdx) (kk : Byte) (s : State) : Result := .next (s.skipIf (s.reg x != kk))

/-- `SE Vx, Vy` (R88). -/
def execSeReg (x y : RegIdx) (s : State) : Result := .next (s.skipIf (s.reg x == s.reg y))

/-- `SNE Vx, Vy` (R89). -/
def execSneReg (x y : RegIdx) (s : State) : Result := .next (s.skipIf (s.reg x != s.reg y))

/-- `JP V0, addr` (R90): with BNNN_MODE = jump_v0 the sum `nnn + V0`, not reduced to 12 bits; with BNNN_MODE = illegal
`raise UnknownOpcode(pc, w)` (R67, D4; log 4). -/
def execJpV0 (nnn : Addr) (s : State) : Result :=
  match s.cfg.bnnnMode with
  | .jumpV0 => .next (s.setPc (zext16 nnn + (s.reg 0).zeroExtend 16))
  | .illegal => raise s (.unknownOpcode s.pc (encode (.jpV0 nnn)))

end Sys2Proof.Machine
end

