-- ==== Sys2Proof/Machine/LoadMove.lean ====
section
/-! DEFINITION. Register moves and memory transfers (spec/41_load_move.md). Block transfers check their whole range
first and leave `I` as it is (D8, D12; logs 8, 12). -/

namespace Sys2Proof.Machine

/-- `LD Vx, byte` (R100). -/
def execLdByte (x : RegIdx) (kk : Byte) (s : State) : Result := .next (s.setReg x kk).toNext

/-- `LD Vx, Vy` (R101). -/
def execLdReg (x y : RegIdx) (s : State) : Result := .next (s.setReg x (s.reg y)).toNext

/-- `LD I, addr` (R102). -/
def execLdIAddr (nnn : Addr) (s : State) : Result := .next (s.setI (zext16 nnn)).toNext

/-- `LD Vx, [I]` (R103): V0..Vx from I..I+x. -/
def execLdVxMem (x : RegIdx) (s : State) : Result :=
  guardRange s s.I.toNat (x.val + 1) (.next (s.loadRegs x).toNext)

/-- `LD [I], Vx` (R104): V0..Vx to I..I+x. -/
def execLdMemVx (x : RegIdx) (s : State) : Result :=
  guardRange s s.I.toNat (x.val + 1) (.next (s.storeBytes s.I.toNat (s.regsUpTo x)).toNext)

/-- `LD B, Vx` (R105): hundreds, tens, ones to I, I+1, I+2. -/
def execLdBVx (x : RegIdx) (s : State) : Result :=
  guardRange s s.I.toNat 3 (.next (s.storeBytes s.I.toNat (bcdDigits (s.reg x))).toNext)

/-- `LD F, Vx` (R106): memory is not accessed. -/
def execLdFVx (x : RegIdx) (s : State) : Result :=
  .next (s.setI (fontAddr (lowNibble (s.reg x)))).toNext

end Sys2Proof.Machine
end

