-- ==== Sys2Proof/Machine/TimerKeypad.lean ====
section
/-! DEFINITION. Timer and keypad instructions (spec/44_timer_keypad_instr.md), and the key-wait cycle (R147). -/

namespace Sys2Proof.Machine

/-- `DT <- b` (R21). -/
def State.setDT (s : State) (b : Byte) : State := { s with DT := b }

/-- `ST <- b` (R21). -/
def State.setST (s : State) (b : Byte) : State := { s with ST := b }

/-- `wait <- w; edge <- e` (R23). -/
def State.setWait (s : State) (w : Option RegIdx) (e : Option Key) : State := { s with wait := w, edge := e }

/-- `LD Vx, DT` (R140). -/
def execLdVxDT (x : RegIdx) (s : State) : Result := .next (s.setReg x s.DT).toNext

/-- `LD DT, Vx` (R141). -/
def execLdDTVx (x : RegIdx) (s : State) : Result := .next (s.setDT (s.reg x)).toNext

/-- `LD ST, Vx` (R142). -/
def execLdSTVx (x : RegIdx) (s : State) : Result := .next (s.setST (s.reg x)).toNext

/-- `SKP Vx` (R143): the level of the key now. -/
def execSkp (x : RegIdx) (s : State) : Result := .next (s.skipIf (s.keyDown x))

/-- `SKNP Vx` (R144). -/
def execSknp (x : RegIdx) (s : State) : Result := .next (s.skipIf (!s.keyDown x))

/-- `LD Vx, K` in the cycle that fetches it (R145): enter the key wait, `pc` kept. -/
def execLdVxK (x : RegIdx) (s : State) : Result := .next (s.setWait (some x) none)

/-- A key-wait cycle of register `x` (R147): deliver the latched key and go on, or change nothing. -/
def waitCycle (x : RegIdx) (s : State) : Result :=
  match s.edge with
  | some k => .next ((s.setReg x (BitVec.ofNat 8 k.val)).setWait none none).toNext
  | none => .next s

end Sys2Proof.Machine
end

