-- ==== Sys2Proof/Machine/Clock.lean ====
section
/-! DEFINITION. The Timer Pair's tick and the dual-rate Clock/Scheduler (spec/45_timers_clock.md R150 to R156). All clock
arithmetic is exact natural arithmetic (R153). -/

namespace Sys2Proof.Machine

/-- A timer counted down by one, held at 0 (R21, R150). -/
def countDown (t : Byte) : Byte := if 0 < t then t - 1 else t

/-- `tick()` (R150): nothing but `DT` and `ST` changes. -/
def tick (s : State) : State := { s with DT := countDown s.DT, ST := countDown s.ST }

/-- How many steps of a rate fall due: the accumulator's whole multiples of U (R154). -/
def owedCount (acc dt rate units : Nat) : Nat := (acc + dt * rate) / units

/-- What is left in the accumulator (R154). -/
def owedRest (acc dt rate units : Nat) : Nat := (acc + dt * rate) % units

/-- Is tick `j` due no later than cycle `k`? Tick `j` is due at `(j*U - t0) / 60`, cycle `k` at `(k*U - c0) / CPU_HZ`; on
a tie the tick goes first (R155, D16; log 16). -/
def tickFirst (c : Config) (c0 t0 k j : Nat) : Bool :=
  decide ((j * c.units - t0) * c.cpuHz ≤ (k * c.units - c0) * timerHz)

/-- The loop of R155 from cycle `k` and tick `j` on, for at most `fuel` steps. -/
def mergeFrom (c : Config) (c0 t0 nC nT : Nat) : Nat → Nat → Nat → List Slot
  | 0, _, _ => []
  | fuel + 1, k, j =>
    if j ≤ nT ∧ (nC < k ∨ tickFirst c c0 t0 k j = true) then .tick :: mergeFrom c c0 t0 nC nT fuel k (j + 1)
    else .cycle :: mergeFrom c c0 t0 nC nT fuel (k + 1) j

/-- The owed cycles and ticks of one call, in the order they are executed (R155): `nC + nT` steps in all. -/
def schedule (c : Config) (c0 t0 nC nT : Nat) : List Slot := mergeFrom c c0 t0 nC nT (nC + nT) 1 1

/-- `advance(dt)` (R154 to R156): the accumulators keep the remainders, and the owed steps are set out in due order, to
be executed one at a time. In the Uninitialized state it does nothing; Halted and waiting cycles are owed like any
others (D13, D18; logs 13, 18). -/
def State.advance (s : State) (dt : Nat) : State :=
  match s.run with
  | .uninitialized => s
  | .running | .halted =>
    { s with
      cpuAcc := owedRest s.cpuAcc dt s.cfg.cpuHz s.cfg.units
      tmrAcc := owedRest s.tmrAcc dt timerHz s.cfg.units
      slots := schedule s.cfg s.cpuAcc s.tmrAcc (owedCount s.cpuAcc dt s.cfg.cpuHz s.cfg.units)
        (owedCount s.tmrAcc dt timerHz s.cfg.units) }

end Sys2Proof.Machine
end

