-- ==== Sys2Proof/Machine/HostInterface.lean ====
section
/-! DEFINITION. The host's transactions (spec/46_host_interface.md): each atomic, between `advance` calls (R179), and the
three pure reads. -/

namespace Sys2Proof.Machine

/-- PROG_MAX (R4): the longest program image. -/
def progMax : Nat := 3584

/-- Every element at its reset value (R28), memory holding `image`; the configuration, the random source and the host's
further calls are not the block's own and stay. -/
def State.recreate (s : State) (image : List Byte) : State :=
  { State.reset with
    mem := Memory.load s.cfg.font image
    image := image
    cfg := s.cfg
    draws := s.draws
    inbox := s.inbox }

/-- What `initialize` returns (R171): `none` is ok. -/
def loadError (bytes : List Byte) : Option ErrorRecord :=
  if progMax < bytes.length then some (.romTooLarge bytes.length) else none

/-- `initialize(program_bytes)` (R171, R196): re-create everything, or leave the block Uninitialized with the load error
and both timers at 0 (R156). What the other elements hold while Uninitialized is unspecified and unobservable (R28, D27;
log 27). -/
def State.load (s : State) (bytes : List Byte) : State :=
  match loadError bytes with
  | some e => { s with run := .uninitialized, err := some e, DT := 0, ST := 0 }
  | none => s.recreate bytes

/-- `reset()` (R173): the reset values with the retained image; on an Uninitialized block nothing (D14; log 14). -/
def State.hostReset (s : State) : State :=
  match s.run with
  | .uninitialized => s
  | .running | .halted => s.recreate s.image

/-- The latch of R146 at `set_key_state(code, pressed)`: the first key-press edge while the engine waits (D10; log 10). -/
def State.latch (s : State) (code : Key) (pressed : Bool) : Option Key :=
  if pressed = true ∧ s.keys[code] = false ∧ s.wait.isSome ∧ s.edge = none then some code else s.edge

/-- `set_key_state(code, pressed)` (R175): the latch, then the level; no effect while Uninitialized. -/
def State.setKey (s : State) (code : Key) (pressed : Bool) : State :=
  match s.run with
  | .uninitialized => s
  | .running | .halted => { s with edge := s.latch code pressed, keys := s.keys.set code pressed }

/-- One call of the host. -/
def State.hostCall (s : State) (c : HostCall) : State :=
  match c with
  | .load bytes => s.load bytes
  | .reset => s.hostReset
  | .advance dt => s.advance dt
  | .setKeyState code pressed => s.setKey code pressed

/-! ## The pure reads -/

/-- `display_snapshot()` (R176): a copy of `fb`; all off while Uninitialized. -/
def State.displaySnapshot (s : State) : DisplayBuffer :=
  match s.run with
  | .uninitialized => DisplayBuffer.allOff
  | .running | .halted => s.fb

/-- `sound_active()` (R151, R177): the level `ST > 0`; false while Uninitialized. -/
def State.soundActive (s : State) : Bool :=
  match s.run with
  | .uninitialized => false
  | .running | .halted => decide (0 < s.ST.toNat)

/-- Reading `err` (R178). -/
def State.readErr (s : State) : Option ErrorRecord := s.err

/-- The code of an error record (R191). -/
def ErrorRecord.code (e : ErrorRecord) : Nat :=
  match e with
  | .romTooLarge _ => 1
  | .addressOutOfRange _ _ => 2
  | .stackOverflow _ => 3
  | .stackUnderflow _ => 4
  | .unknownOpcode _ _ => 5

end Sys2Proof.Machine
end

