-- ==== Sys2Proof/Machine/Cycle.lean ====
section
/-! DEFINITION. The CPU cycle (spec/40_flow_control.md R80, R81) and which agent moves next (spec/00_scope.md R6;
spec/45_timers_clock.md R155, R158; spec/46_host_interface.md R179). -/

namespace Sys2Proof.Machine

/-- Decode the fetched word and execute it; an unknown word raises `UnknownOpcode(pc, w)` (R65, R66, R195). -/
def execWord (w : Word) (s : State) : Result :=
  match decode s.cfg.bnnnMode w with
  | .ok i => exec i s
  | .error _ => raise s (.unknownOpcode s.pc w)

/-- Fetch, decode, execute (R80, R81, R199): the two bytes at `pc` must lie at or below 0xFFF. -/
def fetchExecute (s : State) : Result := guardRange s s.pc.toNat 2 (execWord s.wordAtPc s)

/-- One CPU cycle (R80): idle unless Running; in a key wait the wait cycle (R147); else fetch, decode, execute. -/
def cycle (s : State) : Result :=
  match s.run with
  | .uninitialized | .halted => .next s
  | .running =>
    match s.wait with
    | some x => waitCycle x s
    | none => fetchExecute s

/-- What the next step is. -/
inductive Event where
  /-- A CPU cycle. -/
  | cycle
  /-- A timer tick. -/
  | tick
  /-- A call of the host. -/
  | host (c : HostCall)
  /-- Nothing: no step is owed and the host calls nothing. -/
  | idle
  deriving DecidableEq, Repr

/-- Which agent moves next: the step owed next by the `advance` in progress (R155); when none is owed, the host's next
call (R179); with neither, none: the Clock, driven by `advance`, is the sole driver (R6), and when the host stops calling
nothing runs (R181 (b); log 102). -/
def State.nextEvent (s : State) : Event :=
  match s.slots with
  | .cycle :: _ => .cycle
  | .tick :: _ => .tick
  | [] =>
    match s.inbox with
    | c :: _ => .host c
    | [] => .idle

/-- The state with that owed step or call taken off its list. -/
def State.popEvent (s : State) : State :=
  match s.slots with
  | _ :: rest => { s with slots := rest }
  | [] =>
    match s.inbox with
    | _ :: rest => { s with inbox := rest }
    | [] => s

/-- Run one event. -/
def runEvent (e : Event) (s : State) : Result :=
  match e with
  | .cycle => cycle s
  | .tick => .next (tick s)
  | .host c => .next (s.hostCall c)
  | .idle => .next s

/-- The state in which the very next step fetches and runs the word `w` (log 105): `w` at `pc`, big-endian (where the two
bytes at `pc` exist), the engine Running and not waiting, a cycle next, and BNNN_MODE = jump_v0 for a word Bnnn. -/
def State.placeWord (s : State) (w : Word) : State :=
  { s with
    mem := if s.pc.toNat + 1 < memSize then s.mem.writeBytes s.pc.toNat [w.extractLsb' 8 8, w.extractLsb' 0 8] else s.mem
    run := .running
    wait := none
    slots := if s.nextEvent = .cycle then s.slots else .cycle :: s.slots
    cfg := if nibble 3 w = 0xB then { s.cfg with bnnnMode := .jumpV0 } else s.cfg }

end Sys2Proof.Machine
end

