-- ==== Sys2Proof/Safety.lean ====
section
/-! DEFINITION. The terms claims are stated in: the elements of the state and which of them a step may change (spec/
10_state.md R15, R30), when an instruction raises (spec/60_exceptions.md R191, R192), what a safe run is, and the
invariant of reachable states. -/

namespace Sys2Proof.Machine

/-! ## Elements and frames -/

/-- One element of the state: a memory cell, a register, or a field (R10, R30). -/
inductive Elem where
  | mem (a : Nat)
  | reg (x : RegIdx)
  | I | pc | stack | fb | keys | DT | ST | run | wait | edge | err
  | cpuAcc | tmrAcc | image | cfg | draws | slots | inbox
  deriving DecidableEq, Repr

/-- Element `e` holds the same in both states; a memory cell is compared by the byte read there. -/
def Elem.Same (s t : State) (e : Elem) : Prop :=
  match e with
  | .mem a => t.byteAt a = s.byteAt a
  | .reg x => t.reg x = s.reg x
  | .I => t.I = s.I
  | .pc => t.pc = s.pc
  | .stack => t.stack = s.stack
  | .fb => t.fb = s.fb
  | .keys => t.keys = s.keys
  | .DT => t.DT = s.DT
  | .ST => t.ST = s.ST
  | .run => t.run = s.run
  | .wait => t.wait = s.wait
  | .edge => t.edge = s.edge
  | .err => t.err = s.err
  | .cpuAcc => t.cpuAcc = s.cpuAcc
  | .tmrAcc => t.tmrAcc = s.tmrAcc
  | .image => t.image = s.image
  | .cfg => t.cfg = s.cfg
  | .draws => t.draws = s.draws
  | .slots => t.slots = s.slots
  | .inbox => t.inbox = s.inbox

/-- FRAME: every element outside `w` holds the same before and after. -/
def ChangesOnly (s t : State) (w : List Elem) : Prop := ∀ e, e ∉ w → e.Same s t

/-- The memory cells `base`, ..., `base + n - 1`. -/
def cells (base n : Nat) : List Elem := (List.range n).map fun k => .mem (base + k)

/-- The registers V0..Vx. -/
def regsTo (x : RegIdx) : List Elem := ((List.finRange 16).filter fun i => i ≤ x).map .reg

/-- The elements an instruction writes when it raises nothing (R15, R30 and the instruction's own rule). A store's cells
are those at `I`, computed as its meaning computes them. -/
def footprint (i : Instr) (s : State) : List Elem :=
  match i with
  | .cls => [.fb, .pc]
  | .ret | .callAddr _ => [.stack, .pc]
  | .jpAddr _ | .jpV0 _ => [.pc]
  | .seByte _ _ | .sneByte _ _ | .seReg _ _ | .sneReg _ _ | .skp _ | .sknp _ => [.pc]
  | .ldByte x _ | .ldReg x _ | .addByte x _ | .orReg x _ | .andReg x _ | .xorReg x _ => [.reg x, .pc]
  | .addReg x _ | .sub x _ | .subn x _ | .shr x _ | .shl x _ => [.reg x, .reg VF, .pc]
  | .rnd x _ => [.reg x, .draws, .pc]
  | .drw _ _ _ => [.fb, .reg VF, .pc]
  | .ldVxDT x => [.reg x, .pc]
  | .ldVxK _ => [.wait, .edge]
  | .ldDTVx _ => [.DT, .pc]
  | .ldSTVx _ => [.ST, .pc]
  | .ldIAddr _ | .addIVx _ | .ldFVx _ => [.I, .pc]
  | .ldBVx _ => cells s.I.toNat 3 ++ [.pc]
  | .ldMemVx x => cells s.I.toNat (x.val + 1) ++ [.pc]
  | .ldVxMem x => regsTo x ++ [.pc]

/-! ## Errors -/

/-- `AddressOutOfRange` of an access to `n` bytes at `base`, with the lowest offending address (R192). -/
def rangeError (s : State) (base n : Nat) : Option ErrorRecord :=
  if n = 0 ∨ base + n ≤ 0x1000 then none
  else some (.addressOutOfRange s.pc (if base ≤ 0xFFF then 0x1000 else base))

/-- The one error an instruction raises in a state, if it raises one (R191 to R195, R199). -/
def errorOf (i : Instr) (s : State) : Option ErrorRecord :=
  match i with
  | .ret => if s.stack = [] then some (.stackUnderflow s.pc) else none
  | .callAddr _ => if 16 ≤ s.stack.length then some (.stackOverflow s.pc) else none
  | .drw _ _ n => rangeError s s.I.toNat n.val
  | .ldBVx _ => rangeError s s.I.toNat 3
  | .ldMemVx x | .ldVxMem x => rangeError s s.I.toNat (x.val + 1)
  | .jpV0 _ => if s.cfg.bnnnMode = .illegal then some (.unknownOpcode s.pc (encode i)) else none
  | .cls | .jpAddr _ => none
  | .seByte _ _ | .sneByte _ _ | .seReg _ _ | .sneReg _ _ | .skp _ | .sknp _ => none
  | .ldByte _ _ | .ldReg _ _ | .addByte _ _ | .orReg _ _ | .andReg _ _ | .xorReg _ _ => none
  | .addReg _ _ | .sub _ _ | .subn _ _ | .shr _ _ | .shl _ _ | .rnd _ _ => none
  | .ldVxDT _ | .ldVxK _ | .ldDTVx _ | .ldSTVx _ => none
  | .ldIAddr _ | .addIVx _ | .ldFVx _ => none

/-- The state a fatal error leaves (R197, R198): `run` and `err` written, everything else as it was. -/
def State.haltedBy (s : State) (e : ErrorRecord) : State := { s with run := .halted, err := some e }

/-! ## Completion -/

/-- `exec i s` ANSWERS A NEXT STATE that differs from `s` at most in `w` and of which `post` holds. -/
def Completes (i : Instr) (s : State) (w : List Elem) (post : State → Prop) : Prop :=
  ∃ t, exec i s = .next t ∧ ChangesOnly s t w ∧ post t

/-- `w` is the word of `i`: the encoder gives it, and every decoder that knows `i` reads `i` from it (R64). -/
def IsWordOf (i : Instr) (w : Word) : Prop :=
  encode i = w ∧ ∀ m, WellFormed m i = true → decode m w = .ok i

/-- A machine about to run the instruction at `pc`: a cycle is next, the engine is Running and not waiting (R80). -/
structure State.AtFetch (s : State) : Prop where
  next : s.nextEvent = .cycle
  running : s.run = .running
  noWait : s.wait = none

/-! ## The sprite in closed form -/

/-- Does the sprite of `DRW Vx, Vy, n` paint the pixel (px, py)? It lies in sprite row `(py - y0) mod 32 < n` and sprite
column `(px - x0) mod 64 < 8`, and that row byte has bit 7 - column set (R131, R133, R134). -/
def spriteBit (s : State) (x y : RegIdx) (n : Fin 16) (px : Fin 64) (py : Fin 32) : Bool :=
  let row := (py.val + 32 - (s.reg y).toNat % 32) % 32
  let col := (px.val + 64 - (s.reg x).toNat % 64) % 64
  decide (row < n.val) && decide (col < 8) && (s.byteAt (s.I.toNat + row)).getLsbD (7 - col)

/-! ## Safe runs and the invariant -/

/-- A run is safe while no fatal error has occurred (R22, R197). -/
def State.Safe (s : State) : Prop := s.run ≠ .halted

/-- A fatal error raised by the instruction at `pc` (R191). -/
def FatalAt (pc : Word) (e : ErrorRecord) : Prop :=
  (∃ a, 0xFFF < a ∧ e = .addressOutOfRange pc a) ∨ e = .stackOverflow pc ∨ e = .stackUnderflow pc ∨
    ∃ w, e = .unknownOpcode pc w

/-- `run` and `err` go together (R22, R25): no error while Running, a fatal error of the instruction at `pc` while
Halted, at most a load error while Uninitialized. -/
def State.StatusOk (s : State) : Prop :=
  match s.run with
  | .running => s.err = none
  | .halted => ∃ e, s.err = some e ∧ FatalAt s.pc e
  | .uninitialized => s.err = none ∨ ∃ len, 3584 < len ∧ s.err = some (.romTooLarge len)

/-- The largest value `pc` can reach (R16): 0x1002, or 0x10FE with BNNN_MODE = jump_v0. -/
def pcMax (m : BnnnMode) : Nat :=
  match m with
  | .illegal => 0x1002
  | .jumpV0 => 0x10FE

/-- What holds of every reachable state. -/
structure State.Inv (s : State) : Prop where
  /-- Memory is in canonical form, within the address space (R18, R40). -/
  mem : s.mem.Wf
  /-- CPU_HZ and U are positive (R5). -/
  cfg : s.cfg.Ok
  /-- The image fits (R27, R171). -/
  image : s.image.length ≤ 3584
  /-- The upper four bits of `I` are zero (R13). -/
  index : s.I.toNat ≤ 0xFFF
  /-- At most 16 return addresses (R17). -/
  depth : s.stack.length ≤ 16
  /-- Every entry is one a CALL pushed (R83). -/
  entries : ∀ a ∈ s.stack, 0x002 ≤ a.toNat ∧ a.toNat ≤ 0x1000
  /-- `pc` never wraps (R16). -/
  pc : s.pc.toNat ≤ pcMax s.cfg.bnnnMode
  /-- The clock accumulators are below U (R26). -/
  accs : s.cpuAcc < s.cfg.units ∧ s.tmrAcc < s.cfg.units
  /-- `run` and `err` agree (R22, R25). -/
  status : s.StatusOk
  /-- Both timers are 0 while Uninitialized (R156). -/
  stopped : s.run = .uninitialized → s.DT = 0 ∧ s.ST = 0
  /-- A waiting engine sits on an instruction and has not failed (R23, R147). -/
  waiting : s.wait ≠ none → s.pc.toNat ≤ 0xFFE ∧ s.run ≠ .halted
  /-- `edge` is latched only during a wait (R146). -/
  latched : s.edge ≠ none → s.wait ≠ none

end Sys2Proof.Machine
end

