-- ==== Sys2Proof/Certificates/Slice0/Obligations.lean ====
section
/-! DEFINITION. The statements for the provers, each from the numbered rules of spec/. Where a clause rests on a decision
the spec marks as its own (D<n>) or on general knowledge (G<n>), the docstring names it and its log entry. `s`, `t` range
over every state, so over every configuration and every host behaviour, unless a premise says otherwise. -/

open Sys2Proof Sys2Proof.Machine

/-! ## Encoding -/

/-- R61, R62, R64 (bit patterns: D32, G1; log 32): decoding the word of an instruction gives the instruction back, every
operand at every value. -/
def Obligations.DecodeOfEncodeIsTheInstruction : Prop :=
  ∀ (m : BnnnMode) (i : Instr), WellFormed m i = true → decode m (encode i) = .ok i

/-- R64, R65 (D32, D21; logs 32, 21): a word that decodes is the word of what it decodes to, so that no bit is dropped. -/
def Obligations.EncodeOfDecodeIsTheWord : Prop :=
  ∀ (m : BnnnMode) (w : Word) (i : Instr), decode m w = .ok i → encode i = w

/-- R64 to R67 (D21, D4; logs 21, 4): a word is an instruction iff it matches a row of the opcode map in all its fixed
bits, and every other word is rejected by name. -/
def Obligations.DecodeAcceptsExactlyTheRows : Prop :=
  ∀ (m : BnnnMode) (w : Word),
    ((∃ i, decode m w = .ok i) ↔ ∃ row ∈ rowsOf m, matchesRow w row = true) ∧
      ((∀ row ∈ rowsOf m, matchesRow w row = false) → decode m w = .error (.unknownOpcode w))

/-- R64, R67 (bit patterns: D32, log 32): the word of every instruction, its fixed nibbles written out, every operand at
every value. `IsWordOf`: the encoder gives it, and every decoder that knows the instruction reads it back. -/
def Obligations.EveryInstructionHasItsWord : Prop :=
  ∀ (nnn : Addr) (kk : Byte) (x y : RegIdx) (n : Fin 16),
    (IsWordOf .cls 0x00E0 ∧ IsWordOf .ret 0x00EE ∧ IsWordOf (.jpAddr nnn) (0x1#4 ++ nnn) ∧
      IsWordOf (.callAddr nnn) (0x2#4 ++ nnn) ∧ IsWordOf (.ldIAddr nnn) (0xA#4 ++ nnn) ∧
      IsWordOf (.jpV0 nnn) (0xB#4 ++ nnn)) ∧
    (IsWordOf (.seByte x kk) (0x3#4 ++ Nibble.ofIdx x ++ kk) ∧ IsWordOf (.sneByte x kk) (0x4#4 ++ Nibble.ofIdx x ++ kk) ∧
      IsWordOf (.ldByte x kk) (0x6#4 ++ Nibble.ofIdx x ++ kk) ∧ IsWordOf (.addByte x kk) (0x7#4 ++ Nibble.ofIdx x ++ kk) ∧
      IsWordOf (.rnd x kk) (0xC#4 ++ Nibble.ofIdx x ++ kk)) ∧
    (IsWordOf (.seReg x y) (0x5#4 ++ Nibble.ofIdx x ++ Nibble.ofIdx y ++ 0x0#4) ∧
      IsWordOf (.ldReg x y) (0x8#4 ++ Nibble.ofIdx x ++ Nibble.ofIdx y ++ 0x0#4) ∧
      IsWordOf (.orReg x y) (0x8#4 ++ Nibble.ofIdx x ++ Nibble.ofIdx y ++ 0x1#4) ∧
      IsWordOf (.andReg x y) (0x8#4 ++ Nibble.ofIdx x ++ Nibble.ofIdx y ++ 0x2#4) ∧
      IsWordOf (.xorReg x y) (0x8#4 ++ Nibble.ofIdx x ++ Nibble.ofIdx y ++ 0x3#4) ∧
      IsWordOf (.addReg x y) (0x8#4 ++ Nibble.ofIdx x ++ Nibble.ofIdx y ++ 0x4#4) ∧
      IsWordOf (.sub x y) (0x8#4 ++ Nibble.ofIdx x ++ Nibble.ofIdx y ++ 0x5#4) ∧
      IsWordOf (.shr x y) (0x8#4 ++ Nibble.ofIdx x ++ Nibble.ofIdx y ++ 0x6#4) ∧
      IsWordOf (.subn x y) (0x8#4 ++ Nibble.ofIdx x ++ Nibble.ofIdx y ++ 0x7#4) ∧
      IsWordOf (.shl x y) (0x8#4 ++ Nibble.ofIdx x ++ Nibble.ofIdx y ++ 0xE#4) ∧
      IsWordOf (.sneReg x y) (0x9#4 ++ Nibble.ofIdx x ++ Nibble.ofIdx y ++ 0x0#4) ∧
      IsWordOf (.drw x y n) (0xD#4 ++ Nibble.ofIdx x ++ Nibble.ofIdx y ++ Nibble.ofIdx n)) ∧
    (IsWordOf (.skp x) (0xE#4 ++ Nibble.ofIdx x ++ 0x9E#8) ∧ IsWordOf (.sknp x) (0xE#4 ++ Nibble.ofIdx x ++ 0xA1#8) ∧
      IsWordOf (.ldVxDT x) (0xF#4 ++ Nibble.ofIdx x ++ 0x07#8) ∧ IsWordOf (.ldVxK x) (0xF#4 ++ Nibble.ofIdx x ++ 0x0A#8) ∧
      IsWordOf (.ldDTVx x) (0xF#4 ++ Nibble.ofIdx x ++ 0x15#8) ∧ IsWordOf (.ldSTVx x) (0xF#4 ++ Nibble.ofIdx x ++ 0x18#8) ∧
      IsWordOf (.addIVx x) (0xF#4 ++ Nibble.ofIdx x ++ 0x1E#8) ∧ IsWordOf (.ldFVx x) (0xF#4 ++ Nibble.ofIdx x ++ 0x29#8) ∧
      IsWordOf (.ldBVx x) (0xF#4 ++ Nibble.ofIdx x ++ 0x33#8) ∧ IsWordOf (.ldMemVx x) (0xF#4 ++ Nibble.ofIdx x ++ 0x55#8) ∧
      IsWordOf (.ldVxMem x) (0xF#4 ++ Nibble.ofIdx x ++ 0x65#8))

/-- R64, R67: words written out from the opcode map, one of each format, and their unknown neighbours (D32; log 32). -/
def Obligations.WordsOfTheMapDecode : Prop :=
  decode .illegal 0x00E0 = .ok .cls ∧ decode .illegal 0x00EE = .ok .ret ∧
    decode .illegal 0x1204 = .ok (.jpAddr 0x204) ∧ decode .illegal 0x71FF = .ok (.addByte 1 0xFF) ∧
    decode .illegal 0x8A65 = .ok (.sub 0xA 6) ∧ decode .illegal 0xD125 = .ok (.drw 1 2 5) ∧
    decode .illegal 0xF265 = .ok (.ldVxMem 2) ∧ decode .illegal 0xE29E = .ok (.skp 2) ∧
    decode .illegal 0x5121 = .error (.unknownOpcode 0x5121) ∧ decode .illegal 0xB300 = .error (.unknownOpcode 0xB300) ∧
    decode .jumpV0 0xB300 = .ok (.jpV0 0x300)

/-! ## The step and the cycle -/

/-- R80, R81: where a cycle is next and the engine runs, a step executes the instruction the two bytes at `pc` decode to;
around it a step only takes the cycle off the owed ones (the model's `slots`, log 102). -/
def Obligations.StepRunsTheDecodedInstruction : Prop :=
  ∀ (s : State) (i : Instr), s.AtFetch → s.pc.toNat ≤ 0xFFE →
    decode s.cfg.bnnnMode (s.byteAt s.pc.toNat ++ s.byteAt (s.pc.toNat + 1)) = .ok i →
    step s = exec i s.popEvent ∧ s.popEvent = { s with slots := s.slots.tail }

/-- R195 (strict decoding and the patterns: D21, D32; logs 21, 32): a fetched word that matches no row halts the engine,
and the record carries its address and its two bytes. -/
def Obligations.UnknownWordHalts : Prop :=
  ∀ s : State, s.AtFetch → s.pc.toNat ≤ 0xFFE →
    (∀ row ∈ rowsOf s.cfg.bnnnMode, matchesRow (s.byteAt s.pc.toNat ++ s.byteAt (s.pc.toNat + 1)) row = false) →
    step s = .next (s.popEvent.haltedBy
      (.unknownOpcode s.pc (s.byteAt s.pc.toNat ++ s.byteAt (s.pc.toNat + 1))))

/-- R81, R192 (a), R199 (the record's address: D20; log 20): a fetch that does not lie at or below 0xFFF halts, whatever
the bytes are. -/
def Obligations.FetchBeyondMemoryHalts : Prop :=
  ∀ s : State, s.AtFetch → 0xFFE < s.pc.toNat →
    step s = .next (s.popEvent.haltedBy
      (.addressOutOfRange s.pc (if s.pc.toNat = 0xFFF then 0x1000 else s.pc.toNat)))

/-- R80: a cycle of an engine that is not Running changes nothing; it is consumed (D18; log 18). -/
def Obligations.IdleCycleChangesNothing : Prop :=
  ∀ s : State, s.nextEvent = .cycle → s.run ≠ .running → step s = .next { s with slots := s.slots.tail }

/-- R147 (D11; log 11): a key-wait cycle delivers the latched key and goes on, or changes nothing. -/
def Obligations.KeyWaitCycleDeliversTheEdge : Prop :=
  ∀ (s : State) (x : RegIdx), s.nextEvent = .cycle → s.run = .running → s.wait = some x →
    (s.edge = none → step s = .next { s with slots := s.slots.tail }) ∧
      ∀ k : Key, s.edge = some k → ∃ t, step s = .next t ∧ (t.reg x).toNat = k.val ∧ t.wait = none ∧ t.edge = none ∧
        t.pc = s.pc + 2 ∧ t.slots = s.slots.tail ∧ ChangesOnly s t [.reg x, .wait, .edge, .pc, .slots]

/-- R190, R197, R204: every error is taken as a next state and every instruction has its effect, so no step stops. -/
def Obligations.EveryStepAnswersAState : Prop := ∀ s : State, ∃ t, step s = .next t

/-! ## All instructions -/

/-- R191 to R193, R194, R197, R198 (D12, D20; logs 12, 20): an instruction that fails makes no change but the entry into
Halted, for every instruction and every state. -/
def Obligations.ErrorsArePrecise : Prop :=
  ∀ (i : Instr) (s : State) (e : ErrorRecord), errorOf i s = some e → exec i s = .next (s.haltedBy e)

/-- FRAME, R15, R30, R42, R55 and each instruction's own rule: an instruction that does not fail answers a next state and
changes at most the elements its rule names; a store's bytes are those at `I` (footprint), and every other byte of memory
reads as before. That the block transfers keep `I` is D8 (R103, R104; log 8), that OR, AND, XOR keep VF is D7 (R114 to
R116; log 7). -/
def Obligations.InstructionsChangeOnlyTheirFootprint : Prop :=
  ∀ (i : Instr) (s : State), errorOf i s = none → ∃ t, exec i s = .next t ∧ ChangesOnly s t (footprint i s)

/-- R12: the six flag-defining opcodes leave VF at 0x00 or 0x01, unless an arithmetic one names VF as its destination
(there D6, log 6, lets the result survive). -/
def Obligations.FlagsAreZeroOrOne : Prop :=
  ∀ (x y : RegIdx) (n : Fin 16) (i : Instr) (s t : State),
    (i = .drw x y n ∨ (x ≠ VF ∧ (i = .addReg x y ∨ i = .sub x y ∨ i = .subn x y ∨ i = .shr x y ∨ i = .shl x y))) →
    errorOf i s = none → exec i s = .next t → t.reg VF = 0 ∨ t.reg VF = 1

/-! ## Control transfer -/

/-- R84: `JP addr`. -/
def Obligations.JumpSetsPc : Prop :=
  ∀ (nnn : Addr) (s : State), Completes (.jpAddr nnn) s [.pc] fun t => t.pc.toNat = nnn.toNat

/-- R85, R193 (nothing else changed on the error, and its record: D12, D20; logs 12, 20): `CALL addr` pushes the address
after the call and jumps; at depth 16 it fails. -/
def Obligations.CallPushesAndJumps : Prop :=
  ∀ (nnn : Addr) (s : State),
    (s.stack.length < 16 → Completes (.callAddr nnn) s [.stack, .pc] fun t =>
      t.stack = s.stack ++ [s.pc + 2] ∧ t.pc.toNat = nnn.toNat) ∧
    (16 ≤ s.stack.length → exec (.callAddr nnn) s = .next (s.haltedBy (.stackOverflow s.pc)))

/-- R83, R194 (nothing else changed on the error, and its record: D12, D20; logs 12, 20): `RET` pops the last pushed
address into `pc`; on an empty stack it fails. -/
def Obligations.ReturnPops : Prop :=
  ∀ s : State,
    (∀ (a : Word) (rest : List Word), s.stack = rest ++ [a] →
      Completes .ret s [.stack, .pc] fun t => t.pc = a ∧ t.stack = rest) ∧
    (s.stack = [] → exec .ret s = .next (s.haltedBy (.stackUnderflow s.pc)))

/-- R17, R83, R85: after a `CALL`, a `RET` executed with that stack continues after the call with the caller's stack. -/
def Obligations.ReturnAfterCallContinuesAfterIt : Prop :=
  ∀ (nnn : Addr) (s t u : State), s.stack.length < 16 → exec (.callAddr nnn) s = .next t → u.stack = t.stack →
    Completes .ret u [.stack, .pc] fun v => v.pc = s.pc + 2 ∧ v.stack = s.stack

/-- R86 to R89: the skips on a byte and on two registers. -/
def Obligations.SkipsCompareBytes : Prop :=
  ∀ (x y : RegIdx) (kk : Byte) (s : State),
    (Completes (.seByte x kk) s [.pc] fun t => t.pc = if (s.reg x).toNat = kk.toNat then s.pc + 4 else s.pc + 2) ∧
    (Completes (.sneByte x kk) s [.pc] fun t => t.pc = if (s.reg x).toNat ≠ kk.toNat then s.pc + 4 else s.pc + 2) ∧
    (Completes (.seReg x y) s [.pc] fun t =>
      t.pc = if (s.reg x).toNat = (s.reg y).toNat then s.pc + 4 else s.pc + 2) ∧
    Completes (.sneReg x y) s [.pc] fun t =>
      t.pc = if (s.reg x).toNat ≠ (s.reg y).toNat then s.pc + 4 else s.pc + 2

/-- R90 (general knowledge G4; D4, log 4): `JP V0, addr` with BNNN_MODE = jump_v0, and what the words do otherwise. -/
def Obligations.JumpV0DependsOnTheMode : Prop :=
  ∀ (nnn : Addr) (s : State),
    (s.cfg.bnnnMode = .jumpV0 → Completes (.jpV0 nnn) s [.pc] fun t => t.pc.toNat = nnn.toNat + (s.reg 0).toNat) ∧
    (s.cfg.bnnnMode = .illegal → exec (.jpV0 nnn) s = .next (s.haltedBy (.unknownOpcode s.pc (0xB#4 ++ nnn))))

/-! ## Loads and moves -/

/-- R100, R101: the register moves. -/
def Obligations.MovesWriteTheRegister : Prop :=
  ∀ (x y : RegIdx) (kk : Byte) (s : State),
    (Completes (.ldByte x kk) s [.reg x, .pc] fun t => t.reg x = kk ∧ t.pc = s.pc + 2) ∧
    Completes (.ldReg x y) s [.reg x, .pc] fun t => t.reg x = s.reg y ∧ t.pc = s.pc + 2

/-- R102, R106: `LD I, addr`, and `LD F, Vx`, which ignores the high nibble of Vx and does not access memory. -/
def Obligations.IndexLoadsWriteI : Prop :=
  ∀ (nnn : Addr) (x : RegIdx) (s : State),
    (Completes (.ldIAddr nnn) s [.I, .pc] fun t => t.I.toNat = nnn.toNat ∧ t.pc = s.pc + 2) ∧
    Completes (.ldFVx x) s [.I, .pc] fun t => t.I.toNat = 5 * ((s.reg x).toNat % 16) ∧ t.pc = s.pc + 2

/-- R103 (I kept: D8, log 8; nothing changed on an error, and its record: D12, D20; logs 12, 20): the block load. -/
def Obligations.BlockLoadReadsFromI : Prop :=
  ∀ (x : RegIdx) (s : State),
    (s.I.toNat + x.val ≤ 0xFFF → Completes (.ldVxMem x) s (regsTo x ++ [.pc]) fun t =>
      (∀ r ≤ x, t.reg r = s.byteAt (s.I.toNat + r.val)) ∧ t.pc = s.pc + 2) ∧
    (0xFFF < s.I.toNat + x.val →
      exec (.ldVxMem x) s = .next (s.haltedBy (.addressOutOfRange s.pc (max s.I.toNat 0x1000))))

/-- R104 (D8, D12, D20; logs 8, 12, 20): the block store. -/
def Obligations.BlockStoreWritesAtI : Prop :=
  ∀ (x : RegIdx) (s : State),
    (s.I.toNat + x.val ≤ 0xFFF → Completes (.ldMemVx x) s (cells s.I.toNat (x.val + 1) ++ [.pc]) fun t =>
      (∀ r ≤ x, t.byteAt (s.I.toNat + r.val) = s.reg r) ∧ t.pc = s.pc + 2) ∧
    (0xFFF < s.I.toNat + x.val →
      exec (.ldMemVx x) s = .next (s.haltedBy (.addressOutOfRange s.pc (max s.I.toNat 0x1000))))

/-- R103, R104 (D8; log 8): what a block store wrote, a block load with that memory and that `I` reads back. -/
def Obligations.BlockLoadReadsBackTheBlockStore : Prop :=
  ∀ (x : RegIdx) (s t u : State), s.I.toNat + x.val ≤ 0xFFF → exec (.ldMemVx x) s = .next t →
    u.mem = t.mem → u.I = t.I →
    Completes (.ldVxMem x) u (regsTo x ++ [.pc]) fun v => ∀ r ≤ x, v.reg r = s.reg r

/-- R105 (the error's record: D20; log 20): `LD B, Vx` stores the hundreds, tens and ones of Vx at I, I+1, I+2; out of
range it writes nothing. -/
def Obligations.BcdStoresTheDigits : Prop :=
  ∀ (x : RegIdx) (s : State),
    (s.I.toNat + 2 ≤ 0xFFF → Completes (.ldBVx x) s (cells s.I.toNat 3 ++ [.pc]) fun t =>
      (t.byteAt s.I.toNat).toNat = (s.reg x).toNat / 100 ∧
      (t.byteAt (s.I.toNat + 1)).toNat = (s.reg x).toNat / 10 % 10 ∧
      (t.byteAt (s.I.toNat + 2)).toNat = (s.reg x).toNat % 10 ∧ t.pc = s.pc + 2) ∧
    (0xFFF < s.I.toNat + 2 →
      exec (.ldBVx x) s = .next (s.haltedBy (.addressOutOfRange s.pc (max s.I.toNat 0x1000))))

/-- R52 (an inference of the spec from R40, R49, R80): bytes stored after the storing instruction are the word the next
cycle fetches. -/
def Obligations.StoredBytesAreFetchedNext : Prop :=
  ∀ (x : RegIdx) (s t : State), 1 ≤ x.val → s.I.toNat = s.pc.toNat + 2 → s.I.toNat + x.val ≤ 0xFFF →
    exec (.ldMemVx x) s = .next t →
    t.pc = s.pc + 2 ∧ t.byteAt t.pc.toNat ++ t.byteAt (t.pc.toNat + 1) = (s.reg 0 ++ s.reg 1 : Word)

/-! ## Arithmetic, logic, shifts, random -/

/-- R111: `ADD Vx, byte` wraps and changes no flag. -/
def Obligations.AddByteWraps : Prop :=
  ∀ (x : RegIdx) (kk : Byte) (s : State), Completes (.addByte x kk) s [.reg x, .pc] fun t =>
      (t.reg x).toNat = ((s.reg x).toNat + kk.toNat) % 256 ∧ t.pc = s.pc + 2

/-- R110, R112 (x = F: D6, log 6): the low 8 bits of the sum, and VF the carry unless VF is the destination. -/
def Obligations.AddWritesSumAndCarry : Prop :=
  ∀ (x y : RegIdx) (s : State), Completes (.addReg x y) s [.reg x, .reg VF, .pc] fun t =>
      (t.reg x).toNat = ((s.reg x).toNat + (s.reg y).toNat) % 256 ∧
      (x ≠ VF → (t.reg VF).toNat = if 255 < (s.reg x).toNat + (s.reg y).toNat then 1 else 0) ∧ t.pc = s.pc + 2

/-- R110, R117, R118 (x = F: D6, log 6): the differences modulo 256, and VF the no-borrow flag unless VF is the
destination. -/
def Obligations.SubtractsWriteDifferenceAndNoBorrow : Prop :=
  ∀ (x y : RegIdx) (s : State),
    (Completes (.sub x y) s [.reg x, .reg VF, .pc] fun t =>
      (t.reg x).toNat = ((s.reg x).toNat + 256 - (s.reg y).toNat) % 256 ∧
      (x ≠ VF → (t.reg VF).toNat = if (s.reg y).toNat ≤ (s.reg x).toNat then 1 else 0) ∧ t.pc = s.pc + 2) ∧
    Completes (.subn x y) s [.reg x, .reg VF, .pc] fun t =>
      (t.reg x).toNat = ((s.reg y).toNat + 256 - (s.reg x).toNat) % 256 ∧
      (x ≠ VF → (t.reg VF).toNat = if (s.reg x).toNat ≤ (s.reg y).toNat then 1 else 0) ∧ t.pc = s.pc + 2

/-- R110, R119, R120 (x = F: D6, log 6): shifts by one of Vx, whatever the y field, and VF the bit shifted out unless VF
is the destination. -/
def Obligations.ShiftsWriteResultAndBitOut : Prop :=
  ∀ (x y : RegIdx) (s : State),
    (Completes (.shr x y) s [.reg x, .reg VF, .pc] fun t =>
      (t.reg x).toNat = (s.reg x).toNat / 2 ∧ (x ≠ VF → (t.reg VF).toNat = (s.reg x).toNat % 2) ∧ t.pc = s.pc + 2) ∧
    Completes (.shl x y) s [.reg x, .reg VF, .pc] fun t =>
      (t.reg x).toNat = (s.reg x).toNat * 2 % 256 ∧ (x ≠ VF → (t.reg VF).toNat = (s.reg x).toNat / 128) ∧
      t.pc = s.pc + 2

/-- R114, R115, R116 (VF untouched unless x = F: D7, log 7): the bitwise operations, bit by bit. -/
def Obligations.LogicCombinesBitwise : Prop :=
  ∀ (x y : RegIdx) (s : State),
    (Completes (.orReg x y) s [.reg x, .pc] fun t => t.pc = s.pc + 2 ∧
      ∀ k < 8, (t.reg x).getLsbD k = ((s.reg x).getLsbD k || (s.reg y).getLsbD k)) ∧
    (Completes (.andReg x y) s [.reg x, .pc] fun t => t.pc = s.pc + 2 ∧
      ∀ k < 8, (t.reg x).getLsbD k = ((s.reg x).getLsbD k && (s.reg y).getLsbD k)) ∧
    Completes (.xorReg x y) s [.reg x, .pc] fun t => t.pc = s.pc + 2 ∧
      ∀ k < 8, (t.reg x).getLsbD k = ((s.reg x).getLsbD k != (s.reg y).getLsbD k)

/-- R113 (wrap within 12 bits: D5, log 5): `ADD I, Vx`, no flag. -/
def Obligations.AddIndexWrapsInTwelveBits : Prop :=
  ∀ (x : RegIdx) (s : State), Completes (.addIVx x) s [.I, .pc] fun t =>
      t.I.toNat = (s.I.toNat + (s.reg x).toNat) % 0x1000 ∧ t.pc = s.pc + 2

/-- R122 (D19): `RND Vx, byte` masks the drawn byte, whatever that byte is (`Config.randomByte` is a free value of the
model and `draws` its counter, log 19): every bit that is 0 in `kk` is 0 in Vx, and the old Vx does not matter. -/
def Obligations.RandomMasksTheDrawnByte : Prop :=
  ∀ (x : RegIdx) (kk : Byte) (s : State), Completes (.rnd x kk) s [.reg x, .draws, .pc] fun t =>
      t.reg x = Config.randomByte s.draws &&& kk ∧ t.draws = s.draws + 1 ∧ t.pc = s.pc + 2 ∧
      (∀ k < 8, kk.getLsbD k = false → (t.reg x).getLsbD k = false) ∧ (kk = 0 → t.reg x = 0)

/-! ## Display -/

/-- R132: `CLS` turns every pixel off and writes no flag. -/
def Obligations.ClearTurnsEveryPixelOff : Prop :=
  ∀ s : State, Completes .cls s [.fb, .pc] fun t => (∀ x y, t.fb.pixel x y = false) ∧ t.pc = s.pc + 2

/-- R133 to R135 (bit order and orientation: D24, log 24; n = 0: D30, log 30): `DRW` XORs the sprite onto the buffer with
full wrap on both axes, and VF says whether a pixel went from on to off. -/
def Obligations.DrawXorsTheSpriteWithWrap : Prop :=
  ∀ (x y : RegIdx) (n : Fin 16) (s : State),
    (n.val = 0 ∨ s.I.toNat + n.val ≤ 0x1000 →
      Completes (.drw x y n) s [.fb, .reg VF, .pc] fun t =>
        t.pc = s.pc + 2 ∧ (∀ px py, t.fb.pixel px py = (s.fb.pixel px py != spriteBit s x y n px py)) ∧
        (t.reg VF).toNat ≤ 1 ∧
        (t.reg VF = 1 ↔ ∃ px py, s.fb.pixel px py = true ∧ t.fb.pixel px py = false))

/-- R133, R135: drawing the same sprite twice at the same place restores the buffer, and if the first draw met no lit
pixel the second reports a collision exactly when the sprite has a 1 bit. -/
def Obligations.DrawingTwiceRestores : Prop :=
  ∀ (x y : RegIdx) (n : Fin 16) (s t u : State), n.val = 0 ∨ s.I.toNat + n.val ≤ 0x1000 →
    exec (.drw x y n) s = .next t → u.fb = t.fb → u.I = s.I → (∀ a, u.byteAt a = s.byteAt a) →
    (u.reg x).toNat % 64 = (s.reg x).toNat % 64 → (u.reg y).toNat % 32 = (s.reg y).toNat % 32 →
    Completes (.drw x y n) u [.fb, .reg VF, .pc] fun v =>
      v.fb = s.fb ∧ (t.reg VF = 0 → (v.reg VF = 1 ↔ ∃ r < n.val, s.byteAt (s.I.toNat + r) ≠ 0))

/-- R136 (an inference of the spec from R134): one blit never touches the same pixel twice. -/
def Obligations.SpritePixelsAreDistinct : Prop :=
  ∀ (x0 y0 : Nat) (rows : List Byte), rows.length ≤ 15 → (spritePixels x0 y0 0 rows).Nodup

/-! ## Timers and keypad instructions -/

/-- R140, R141, R142: the timer instructions; the sound output follows a write to `ST` at once (an Uninitialized block
runs no instruction, R177). -/
def Obligations.TimerInstructionsMoveTheTimers : Prop :=
  ∀ (x : RegIdx) (s : State),
    (Completes (.ldVxDT x) s [.reg x, .pc] fun t => t.reg x = s.DT ∧ t.pc = s.pc + 2) ∧
    (Completes (.ldDTVx x) s [.DT, .pc] fun t => t.DT = s.reg x ∧ t.pc = s.pc + 2) ∧
    Completes (.ldSTVx x) s [.ST, .pc] fun t => t.ST = s.reg x ∧ t.pc = s.pc + 2 ∧
      (s.run ≠ .uninitialized → (t.soundActive = true ↔ 0 < (s.reg x).toNat))

/-- R143, R144 (key = low nibble of Vx: D9, log 9): the skips on a key's level. -/
def Obligations.KeySkipsTestTheLevel : Prop :=
  ∀ (x : RegIdx) (k : Key) (s : State), k.val = (s.reg x).toNat % 16 →
    (Completes (.skp x) s [.pc] fun t => t.pc = if s.keys[k] = true then s.pc + 4 else s.pc + 2) ∧
    Completes (.sknp x) s [.pc] fun t => t.pc = if s.keys[k] = false then s.pc + 4 else s.pc + 2

/-- R145 (the latch `edge`: D10, log 10): `LD Vx, K` enters the key wait, whatever keys are down, and keeps `pc`. -/
def Obligations.LoadKeyEntersTheWait : Prop :=
  ∀ (x : RegIdx) (s : State), Completes (.ldVxK x) s [.wait, .edge] fun t => t.wait = some x ∧ t.edge = none

/-- R21, R30: `ST` cannot be read by any instruction: with another `ST` an instruction other than `LD ST, Vx` gives the
same next state but for that `ST`, and `LD ST, Vx`, which writes it, gives the same next state. -/
def Obligations.SoundTimerIsNotRead : Prop :=
  (∀ (i : Instr) (s t : State) (b : Byte), (∀ x, i ≠ .ldSTVx x) → exec i s = .next t →
    exec i { s with ST := b } = .next { t with ST := b }) ∧
  ∀ (x : RegIdx) (s : State) (b : Byte), exec (.ldSTVx x) { s with ST := b } = exec (.ldSTVx x) s

/-! ## Timers and clock -/

/-- R150: n ticks count each timer down by n, stopping at 0, and change nothing else. -/
def Obligations.TicksCountDownToZero : Prop :=
  ∀ (n : Nat) (s : State), (tick^[n] s).DT.toNat = s.DT.toNat - n ∧ (tick^[n] s).ST.toNat = s.ST.toNat - n ∧
    ChangesOnly s (tick^[n] s) [.DT, .ST]

/-- R151: a value in `ST` keeps the sound output true across exactly that many ticks. -/
def Obligations.SoundLastsAsManyTicks : Prop :=
  ∀ (n : Nat) (s : State), s.run ≠ .uninitialized → ((tick^[n] s).soundActive = true ↔ n < s.ST.toNat)

/-- R154 (two accumulators: D15, log 15): `advance(dt)` owes exactly the cycles and ticks of the elapsed time and keeps
the remainders; R156: on an Uninitialized block it does nothing at all (D27, log 27). -/
def Obligations.AdvanceOwesExactly : Prop :=
  ∀ (s : State) (dt : Nat), (s.run = .uninitialized → s.advance dt = s) ∧ (s.run ≠ .uninitialized →
    (s.advance dt).slots.count .cycle = (s.cpuAcc + dt * s.cfg.cpuHz) / s.cfg.units ∧
    (s.advance dt).slots.count .tick = (s.tmrAcc + dt * 60) / s.cfg.units ∧
    (s.advance dt).cpuAcc = (s.cpuAcc + dt * s.cfg.cpuHz) % s.cfg.units ∧
    (s.advance dt).tmrAcc = (s.tmrAcc + dt * 60) % s.cfg.units ∧
    ChangesOnly s (s.advance dt) [.slots, .cpuAcc, .tmrAcc])

/-- R155 (merge by due instant, tick first on a tie: D16, log 16): in the order set out, the j-th tick stands before the
k-th cycle exactly when it is due no later. Tick j is due at (j U - t0) / 60, cycle k at (k U - c0) / CPU_HZ. -/
def Obligations.OwedStepsComeInDueOrder : Prop :=
  ∀ (s : State) (dt : Nat) (before after : List Slot) (e : Slot), s.run ≠ .uninitialized → s.cfg.Ok →
    s.cpuAcc < s.cfg.units → s.tmrAcc < s.cfg.units → (s.advance dt).slots = before ++ e :: after →
    (e = .tick → after.count .cycle ≠ 0 →
      ((before.count .tick + 1) * s.cfg.units - s.tmrAcc) * s.cfg.cpuHz ≤
        ((before.count .cycle + 1) * s.cfg.units - s.cpuAcc) * 60) ∧
    (e = .cycle → after.count .tick ≠ 0 →
      ((before.count .cycle + 1) * s.cfg.units - s.cpuAcc) * 60 <
        ((before.count .tick + 1) * s.cfg.units - s.tmrAcc) * s.cfg.cpuHz)

/-- R154, R155 (D15, D16; logs 15, 16): the global order of cycles and ticks does not depend on how the host slices time
into calls. -/
def Obligations.SlicingTimeDoesNotMatter : Prop :=
  ∀ (s : State) (a b : Nat), s.run ≠ .uninitialized → s.cfg.Ok → s.cpuAcc < s.cfg.units → s.tmrAcc < s.cfg.units →
    (s.advance (a + b)).slots = (s.advance a).slots ++ ((s.advance a).advance b).slots ∧
    (s.advance (a + b)).cpuAcc = ((s.advance a).advance b).cpuAcc ∧
    (s.advance (a + b)).tmrAcc = ((s.advance a).advance b).tmrAcc

/-- R148, R156 (ticks in Halted: D13, log 13): an owed tick runs in every run state and during a key wait. -/
def Obligations.OwedTickRunsInEveryState : Prop :=
  ∀ (s : State) (rest : List Slot), s.slots = .tick :: rest →
    ∃ t, step s = .next t ∧ t.slots = rest ∧ t.DT.toNat = s.DT.toNat - 1 ∧ t.ST.toNat = s.ST.toNat - 1 ∧
      ChangesOnly s t [.DT, .ST, .slots]

/-! ## Host interface -/

/-- R28, R171, R172 (keys, accumulators, short images: D22, D17, D29; logs 22, 17, 29): a successful `initialize` leaves
every element at its reset value: memory is the font, zeros, the image and zeros. -/
def Obligations.InitializeLeavesTheResetState : Prop :=
  ∀ (s : State) (bytes : List Byte), bytes.length ≤ 3584 →
    (∀ a : Nat, (s.load bytes).byteAt a =
      if a < 0x50 then s.cfg.font.toList.getD a 0 else if a < 0x200 then 0 else bytes.getD (a - 0x200) 0) ∧
    (∀ r, (s.load bytes).reg r = 0) ∧ (s.load bytes).I = 0 ∧ (s.load bytes).pc = 0x200 ∧ (s.load bytes).stack = [] ∧
    (∀ x y, (s.load bytes).fb.pixel x y = false) ∧ (∀ k : Key, (s.load bytes).keys[k] = false) ∧
    (s.load bytes).DT = 0 ∧ (s.load bytes).ST = 0 ∧ (s.load bytes).run = .running ∧ (s.load bytes).wait = none ∧
    (s.load bytes).edge = none ∧ (s.load bytes).err = none ∧ (s.load bytes).cpuAcc = 0 ∧ (s.load bytes).tmrAcc = 0 ∧
    (s.load bytes).image = bytes ∧ (s.load bytes).cfg = s.cfg

/-- R196, R171 (the record and what is read meanwhile: D20, D27; logs 20, 27): `initialize` with more than 3584 bytes
reports the length and leaves the block Uninitialized with both timers 0 (R156), and a cycle then does nothing. What the
host reads of any block that is not Uninitialized is its buffer (R176), and of any block its error record (R178), whose
kinds carry the codes 1 to 5 of R191 (D20, log 20). -/
def Obligations.TooLongImageLeavesUninitialized : Prop :=
  ∀ (s : State) (bytes : List Byte),
    (3584 < bytes.length →
      (s.load bytes).run = .uninitialized ∧ (s.load bytes).err = some (.romTooLarge bytes.length) ∧
      (s.load bytes).DT = 0 ∧ (s.load bytes).ST = 0 ∧ (s.load bytes).displaySnapshot = DisplayBuffer.allOff ∧
      (s.load bytes).soundActive = false ∧ cycle (s.load bytes) = .next (s.load bytes)) ∧
    (s.run = .uninitialized → s.displaySnapshot = DisplayBuffer.allOff ∧ s.soundActive = false) ∧
    (s.run ≠ .uninitialized → s.displaySnapshot = s.fb) ∧ s.readErr = s.err ∧
    ∀ (len addr : Nat) (pc w : Word), (ErrorRecord.romTooLarge len).code = 1 ∧
      (ErrorRecord.addressOutOfRange pc addr).code = 2 ∧ (ErrorRecord.stackOverflow pc).code = 3 ∧
      (ErrorRecord.stackUnderflow pc).code = 4 ∧ (ErrorRecord.unknownOpcode pc w).code = 5

/-- R173 (the retained image, and nothing on an Uninitialized block: D14, log 14): `reset()` is a re-initialization with
the image last accepted. -/
def Obligations.ResetReinitializes : Prop :=
  ∀ s : State, s.image.length ≤ 3584 →
    (s.run ≠ .uninitialized → s.hostReset = s.load s.image) ∧ (s.run = .uninitialized → s.hostReset = s)

/-- R197, R201, R202, R156 (D13, log 13): in Halted every step but a host's `reset` or `initialize` leaves Halted and the
first error as they are, and nothing changes but timers, keys, clock and what is to come. -/
def Obligations.HaltedUntilTheHostResets : Prop :=
  ∀ s t : State, s.run = .halted → s.nextEvent ≠ .host .reset → (∀ bytes, s.nextEvent ≠ .host (.load bytes)) →
    step s = .next t → t.run = .halted ∧ t.err = s.err ∧
      ChangesOnly s t [.DT, .ST, .keys, .edge, .cpuAcc, .tmrAcc, .slots, .inbox]

/-- R146, R175 (D10, log 10): `set_key_state` latches a fresh edge of a waiting engine, then sets the level; on an
Uninitialized block it has no effect (D27, log 27). -/
def Obligations.SetKeyLatchesThenSets : Prop :=
  ∀ (s : State) (k : Key) (p : Bool), (s.run = .uninitialized → s.setKey k p = s) ∧ (s.run ≠ .uninitialized →
    (∀ j : Key, (s.setKey k p).keys[j] = if j = k then p else s.keys[j]) ∧
    (s.setKey k p).edge =
      (if p = true ∧ s.keys[k] = false ∧ s.wait ≠ none ∧ s.edge = none then some k else s.edge) ∧
    ChangesOnly s (s.setKey k p) [.keys, .edge])

/-- R146 (first edge wins: D10, log 10): once an edge is latched, no later key event of the same wait changes it. -/
def Obligations.FirstEdgeWins : Prop :=
  ∀ (s : State) (k : Key) (events : List (Key × Bool)), s.edge = some k →
    (events.foldl (fun u e => u.setKey e.1 e.2) s).edge = some k ∧
    (events.foldl (fun u e => u.setKey e.1 e.2) s).wait = s.wait

/-- R179, R155, R6, R181 (D26, log 26; `slots` and `inbox` are the model's own, log 102): while steps of an `advance` are
owed, a step takes the first of them and no host call: the keys, the image and the host's calls stay. With none owed a
step RUNS the host's next call. With no call either nothing happens: no cycle runs that no `advance` owes. -/
def Obligations.OwedStepsComeBeforeHostCalls : Prop :=
  ∀ s : State,
    (s.slots ≠ [] → ∃ t, step s = .next t ∧
      t.slots = s.slots.tail ∧ t.inbox = s.inbox ∧ t.keys = s.keys ∧ t.image = s.image) ∧
    (∀ (c : HostCall) (rest : List HostCall), s.slots = [] → s.inbox = c :: rest →
      step s = .next ({ s with inbox := rest }.hostCall c) ∧
      ({ s with inbox := rest }.hostCall c = match c with
        | .load bytes => { s with inbox := rest }.load bytes
        | .reset => { s with inbox := rest }.hostReset
        | .advance dt => { s with inbox := rest }.advance dt
        | .setKeyState code pressed => { s with inbox := rest }.setKey code pressed)) ∧
    (s.slots = [] → s.inbox = [] → step s = .next s)

/-- R30: a step that is no cycle, no `initialize` and no `reset` (a tick, another host call, or nothing) never changes
what belongs to the program. -/
def Obligations.OnlyTheEngineChangesProgramState : Prop :=
  ∀ s t : State, s.nextEvent ≠ .cycle → s.nextEvent ≠ .host .reset → (∀ bytes, s.nextEvent ≠ .host (.load bytes)) →
    step s = .next t →
    ChangesOnly s t [.DT, .ST, .keys, .edge, .cpuAcc, .tmrAcc, .slots, .inbox]

/-! ## Invariants -/

/-- R13, R16, R17, R18, R22, R25, R26, R83, R146, R156: every step keeps the invariant of reachable states, from every state
that has it (the 12 bits of `I` rest on D5, log 5). -/
def Obligations.StepKeepsTheInvariant : Prop := ∀ s t : State, s.Inv → step s = .next t → t.Inv

/-- R28: the reset state has the invariant. -/
def Obligations.ResetHasTheInvariant : Prop := State.reset.Inv

/-- R18, R40, R42: every step keeps memory in canonical form within 0x000..0xFFF, with no premise on anything but memory
and the image. -/
def Obligations.StepKeepsMemoryCanonical : Prop :=
  ∀ s t : State, s.mem.Wf → s.image.length ≤ 3584 → step s = .next t → t.mem.Wf ∧ t.image.length ≤ 3584

/-- R28: the reset state of the model. Only the elements the source gives a value are in it (the keys, the accumulators,
the font, and the edge latch are decisions: logs 22, 17, 25, 10); memory above the font rests on the model's empty image
(log 101). -/
def Obligations.ResetStateHoldsTheResetValues : Prop :=
  (∀ r, State.reset.reg r = 0) ∧ State.reset.I = 0 ∧ State.reset.pc = 0x200 ∧ State.reset.stack = [] ∧
    (∀ x y, State.reset.fb.pixel x y = false) ∧ State.reset.DT = 0 ∧ State.reset.ST = 0 ∧
    State.reset.run = .running ∧ State.reset.wait = none ∧ State.reset.err = none ∧
    ∀ a : Nat, 0x50 ≤ a → State.reset.byteAt a = 0
end

