-- ==== Sys2Proof/Laws/Memory.lean ====
section
/-! SUPPORT. What `Memory.read` gives after a write, and that every memory operation keeps the canonical form
(spec/20_memory.md R41, R42, R49). -/

namespace Sys2Proof.Machine

theorem Memory.read_insert (m : Memory) (a : Nat) (b : Byte) (a' : Nat) :
    (Memory.insert a b m).read a' = if a' = a then b else m.read a' := by
  induction m with
  | nil => simp only [insert, read]; grind
  | cons c m ih =>
    obtain ⟨c, v⟩ := c
    simp only [insert, read]
    split
    · simp only [read]; grind
    · split <;> simp only [read] <;> grind

theorem Memory.read_erase (m : Memory) (a a' : Nat) :
    (Memory.erase a m).read a' = if a' = a then Memory.unlisted a' else m.read a' := by
  induction m with
  | nil => simp [erase, read]
  | cons c m ih =>
    obtain ⟨c, v⟩ := c
    by_cases h : c = a
    · have hm : Memory.erase a ((c, v) :: m) = Memory.erase a m := by simp [erase, h]
      rw [hm, ih]; simp only [read]; grind
    · have hm : Memory.erase a ((c, v) :: m) = (c, v) :: Memory.erase a m := by simp [erase, h]
      rw [hm]; simp only [read, ih]; grind

/-- A read after a write (R42): the byte written at its address, every other address as before. -/
theorem Memory.read_write (m : Memory) (a : Nat) (b : Byte) (a' : Nat) :
    (m.write a b).read a' = if a' = a then b else m.read a' := by
  unfold write
  split
  · rw [read_erase]; split <;> simp_all
  · exact read_insert ..

/-- A read after consecutive writes: the byte stored there, or the byte as before. -/
theorem Memory.read_writeBytes (m : Memory) (a : Nat) (bs : List Byte) (a' : Nat) :
    (m.writeBytes a bs).read a' = if a ≤ a' then bs.getD (a' - a) (m.read a') else m.read a' := by
  induction bs generalizing m a with
  | nil => simp [writeBytes]
  | cons b bs ih =>
    rw [writeBytes, ih, read_write]
    rcases Nat.lt_trichotomy a' a with h | h | h
    · simp [show ¬ a + 1 ≤ a' by omega, show ¬ a ≤ a' by omega, show a' ≠ a by omega]
    · subst h; simp
    · obtain ⟨k, rfl⟩ : ∃ k, a' = a + 1 + k := ⟨a' - a - 1, by omega⟩
      simp [show a + 1 + k - a = k + 1 by omega, show a ≤ a + 1 + k by omega, show a + 1 + k ≠ a by omega]

theorem Memory.mem_insert {m : Memory} {a : Nat} {b : Byte} {c : Host.Cell} (h : c ∈ Memory.insert a b m) :
    c = (a, b) ∨ c ∈ m := by
  induction m with
  | nil => simpa [insert] using h
  | cons d m ih =>
    obtain ⟨d, v⟩ := d
    unfold insert at h
    split at h
    · simpa using h
    · split at h
      · simp only [List.mem_cons] at h ⊢; tauto
      · simp only [List.mem_cons] at h ⊢; rcases h with h | h
        · exact .inr (.inl h)
        · rcases ih h with h | h <;> simp [h]

theorem Memory.sorted_insert {m : Memory} (a : Nat) (b : Byte) (h : m.Pairwise fun c d => c.1 < d.1) :
    (Memory.insert a b m).Pairwise fun c d => c.1 < d.1 := by
  induction m with
  | nil => simp [insert]
  | cons d m ih =>
    obtain ⟨d, v⟩ := d
    rw [List.pairwise_cons] at h
    unfold insert
    split
    next hlt =>
      refine List.pairwise_cons.2 ⟨fun c hc => ?_, List.pairwise_cons.2 h⟩
      rcases List.mem_cons.1 hc with rfl | hc
      · exact hlt
      · exact Nat.lt_trans hlt (h.1 c hc)
    next hge =>
      split
      next heq => subst heq; exact List.pairwise_cons.2 h
      next hne =>
        refine List.pairwise_cons.2 ⟨fun c hc => ?_, ih h.2⟩
        rcases mem_insert hc with rfl | hc
        · show d < a; omega
        · exact h.1 c hc

/-- A write within the address space keeps the canonical form. -/
theorem Memory.wf_write {m : Memory} {a : Nat} (b : Byte) (h : m.Wf) (ha : a < memSize) : (m.write a b).Wf := by
  unfold write
  split
  · exact ⟨h.1.filter _, fun c hc => h.2 c (List.mem_of_mem_filter hc)⟩
  · next hb =>
    refine ⟨sorted_insert a b h.1, fun c hc => ?_⟩
    rcases mem_insert hc with rfl | hc
    · exact ⟨ha, hb⟩
    · exact h.2 c hc

/-- Consecutive writes within the address space keep the canonical form. -/
theorem Memory.wf_writeBytes {m : Memory} {a : Nat} (bs : List Byte) (h : m.Wf) (ha : a + bs.length ≤ memSize) :
    (m.writeBytes a bs).Wf := by
  induction bs generalizing m a with
  | nil => exact h
  | cons b bs ih =>
    simp only [List.length_cons] at ha
    exact ih (wf_write b h (by omega)) (by omega)

/-- The memory `initialize` and `reset` leave is in canonical form. -/
theorem Memory.wf_load (font : Vector Byte 80) {image : List Byte} (h : image.length ≤ 3584) :
    (Memory.load font image).Wf := by
  refine wf_writeBytes _ (wf_writeBytes _ ⟨List.Pairwise.nil, by simp⟩ ?_) ?_ <;>
    simp only [memSize, Vector.length_toList] <;> omega

end Sys2Proof.Machine
end

