-- ==== Sys2Proof/Laws/State.lean ====
section
/-! SUPPORT. One lemma per field per update of State, each true by unfolding, so that no later proof unfolds a record
update; and what a register reads after each update of the registers. -/

namespace Sys2Proof.Machine

variable (s : State)

/-! ## `setReg` -/

@[simp] theorem State.setReg_mem (x : RegIdx) (b : Byte) : (s.setReg x b).mem = s.mem := rfl
@[simp] theorem State.setReg_V (x : RegIdx) (b : Byte) : (s.setReg x b).V = s.V.set x b := rfl
@[simp] theorem State.setReg_I (x : RegIdx) (b : Byte) : (s.setReg x b).I = s.I := rfl
@[simp] theorem State.setReg_pc (x : RegIdx) (b : Byte) : (s.setReg x b).pc = s.pc := rfl
@[simp] theorem State.setReg_stack (x : RegIdx) (b : Byte) : (s.setReg x b).stack = s.stack := rfl
@[simp] theorem State.setReg_fb (x : RegIdx) (b : Byte) : (s.setReg x b).fb = s.fb := rfl
@[simp] theorem State.setReg_keys (x : RegIdx) (b : Byte) : (s.setReg x b).keys = s.keys := rfl
@[simp] theorem State.setReg_DT (x : RegIdx) (b : Byte) : (s.setReg x b).DT = s.DT := rfl
@[simp] theorem State.setReg_ST (x : RegIdx) (b : Byte) : (s.setReg x b).ST = s.ST := rfl
@[simp] theorem State.setReg_run (x : RegIdx) (b : Byte) : (s.setReg x b).run = s.run := rfl
@[simp] theorem State.setReg_wait (x : RegIdx) (b : Byte) : (s.setReg x b).wait = s.wait := rfl
@[simp] theorem State.setReg_edge (x : RegIdx) (b : Byte) : (s.setReg x b).edge = s.edge := rfl
@[simp] theorem State.setReg_err (x : RegIdx) (b : Byte) : (s.setReg x b).err = s.err := rfl
@[simp] theorem State.setReg_cpuAcc (x : RegIdx) (b : Byte) : (s.setReg x b).cpuAcc = s.cpuAcc := rfl
@[simp] theorem State.setReg_tmrAcc (x : RegIdx) (b : Byte) : (s.setReg x b).tmrAcc = s.tmrAcc := rfl
@[simp] theorem State.setReg_image (x : RegIdx) (b : Byte) : (s.setReg x b).image = s.image := rfl
@[simp] theorem State.setReg_cfg (x : RegIdx) (b : Byte) : (s.setReg x b).cfg = s.cfg := rfl
@[simp] theorem State.setReg_draws (x : RegIdx) (b : Byte) : (s.setReg x b).draws = s.draws := rfl
@[simp] theorem State.setReg_slots (x : RegIdx) (b : Byte) : (s.setReg x b).slots = s.slots := rfl
@[simp] theorem State.setReg_inbox (x : RegIdx) (b : Byte) : (s.setReg x b).inbox = s.inbox := rfl
@[simp] theorem State.setReg_byteAt (x : RegIdx) (b : Byte) (addr : Nat) : (s.setReg x b).byteAt addr = s.byteAt addr := rfl

/-! ## `setI` -/

@[simp] theorem State.setI_mem (w : Word) : (s.setI w).mem = s.mem := rfl
@[simp] theorem State.setI_V (w : Word) : (s.setI w).V = s.V := rfl
@[simp] theorem State.setI_I (w : Word) : (s.setI w).I = w := rfl
@[simp] theorem State.setI_pc (w : Word) : (s.setI w).pc = s.pc := rfl
@[simp] theorem State.setI_stack (w : Word) : (s.setI w).stack = s.stack := rfl
@[simp] theorem State.setI_fb (w : Word) : (s.setI w).fb = s.fb := rfl
@[simp] theorem State.setI_keys (w : Word) : (s.setI w).keys = s.keys := rfl
@[simp] theorem State.setI_DT (w : Word) : (s.setI w).DT = s.DT := rfl
@[simp] theorem State.setI_ST (w : Word) : (s.setI w).ST = s.ST := rfl
@[simp] theorem State.setI_run (w : Word) : (s.setI w).run = s.run := rfl
@[simp] theorem State.setI_wait (w : Word) : (s.setI w).wait = s.wait := rfl
@[simp] theorem State.setI_edge (w : Word) : (s.setI w).edge = s.edge := rfl
@[simp] theorem State.setI_err (w : Word) : (s.setI w).err = s.err := rfl
@[simp] theorem State.setI_cpuAcc (w : Word) : (s.setI w).cpuAcc = s.cpuAcc := rfl
@[simp] theorem State.setI_tmrAcc (w : Word) : (s.setI w).tmrAcc = s.tmrAcc := rfl
@[simp] theorem State.setI_image (w : Word) : (s.setI w).image = s.image := rfl
@[simp] theorem State.setI_cfg (w : Word) : (s.setI w).cfg = s.cfg := rfl
@[simp] theorem State.setI_draws (w : Word) : (s.setI w).draws = s.draws := rfl
@[simp] theorem State.setI_slots (w : Word) : (s.setI w).slots = s.slots := rfl
@[simp] theorem State.setI_inbox (w : Word) : (s.setI w).inbox = s.inbox := rfl
@[simp] theorem State.setI_reg (w : Word) (r : RegIdx) : (s.setI w).reg r = s.reg r := rfl
@[simp] theorem State.setI_byteAt (w : Word) (addr : Nat) : (s.setI w).byteAt addr = s.byteAt addr := rfl

/-! ## `setPc` -/

@[simp] theorem State.setPc_mem (w : Word) : (s.setPc w).mem = s.mem := rfl
@[simp] theorem State.setPc_V (w : Word) : (s.setPc w).V = s.V := rfl
@[simp] theorem State.setPc_I (w : Word) : (s.setPc w).I = s.I := rfl
@[simp] theorem State.setPc_pc (w : Word) : (s.setPc w).pc = w := rfl
@[simp] theorem State.setPc_stack (w : Word) : (s.setPc w).stack = s.stack := rfl
@[simp] theorem State.setPc_fb (w : Word) : (s.setPc w).fb = s.fb := rfl
@[simp] theorem State.setPc_keys (w : Word) : (s.setPc w).keys = s.keys := rfl
@[simp] theorem State.setPc_DT (w : Word) : (s.setPc w).DT = s.DT := rfl
@[simp] theorem State.setPc_ST (w : Word) : (s.setPc w).ST = s.ST := rfl
@[simp] theorem State.setPc_run (w : Word) : (s.setPc w).run = s.run := rfl
@[simp] theorem State.setPc_wait (w : Word) : (s.setPc w).wait = s.wait := rfl
@[simp] theorem State.setPc_edge (w : Word) : (s.setPc w).edge = s.edge := rfl
@[simp] theorem State.setPc_err (w : Word) : (s.setPc w).err = s.err := rfl
@[simp] theorem State.setPc_cpuAcc (w : Word) : (s.setPc w).cpuAcc = s.cpuAcc := rfl
@[simp] theorem State.setPc_tmrAcc (w : Word) : (s.setPc w).tmrAcc = s.tmrAcc := rfl
@[simp] theorem State.setPc_image (w : Word) : (s.setPc w).image = s.image := rfl
@[simp] theorem State.setPc_cfg (w : Word) : (s.setPc w).cfg = s.cfg := rfl
@[simp] theorem State.setPc_draws (w : Word) : (s.setPc w).draws = s.draws := rfl
@[simp] theorem State.setPc_slots (w : Word) : (s.setPc w).slots = s.slots := rfl
@[simp] theorem State.setPc_inbox (w : Word) : (s.setPc w).inbox = s.inbox := rfl
@[simp] theorem State.setPc_reg (w : Word) (r : RegIdx) : (s.setPc w).reg r = s.reg r := rfl
@[simp] theorem State.setPc_byteAt (w : Word) (addr : Nat) : (s.setPc w).byteAt addr = s.byteAt addr := rfl

/-! ## `toNext` -/

@[simp] theorem State.toNext_mem : s.toNext.mem = s.mem := rfl
@[simp] theorem State.toNext_V : s.toNext.V = s.V := rfl
@[simp] theorem State.toNext_I : s.toNext.I = s.I := rfl
@[simp] theorem State.toNext_pc : s.toNext.pc = s.pc + 2 := rfl
@[simp] theorem State.toNext_stack : s.toNext.stack = s.stack := rfl
@[simp] theorem State.toNext_fb : s.toNext.fb = s.fb := rfl
@[simp] theorem State.toNext_keys : s.toNext.keys = s.keys := rfl
@[simp] theorem State.toNext_DT : s.toNext.DT = s.DT := rfl
@[simp] theorem State.toNext_ST : s.toNext.ST = s.ST := rfl
@[simp] theorem State.toNext_run : s.toNext.run = s.run := rfl
@[simp] theorem State.toNext_wait : s.toNext.wait = s.wait := rfl
@[simp] theorem State.toNext_edge : s.toNext.edge = s.edge := rfl
@[simp] theorem State.toNext_err : s.toNext.err = s.err := rfl
@[simp] theorem State.toNext_cpuAcc : s.toNext.cpuAcc = s.cpuAcc := rfl
@[simp] theorem State.toNext_tmrAcc : s.toNext.tmrAcc = s.tmrAcc := rfl
@[simp] theorem State.toNext_image : s.toNext.image = s.image := rfl
@[simp] theorem State.toNext_cfg : s.toNext.cfg = s.cfg := rfl
@[simp] theorem State.toNext_draws : s.toNext.draws = s.draws := rfl
@[simp] theorem State.toNext_slots : s.toNext.slots = s.slots := rfl
@[simp] theorem State.toNext_inbox : s.toNext.inbox = s.inbox := rfl
@[simp] theorem State.toNext_reg (r : RegIdx) : s.toNext.reg r = s.reg r := rfl
@[simp] theorem State.toNext_byteAt (addr : Nat) : s.toNext.byteAt addr = s.byteAt addr := rfl

/-! ## `skipIf` -/

@[simp] theorem State.skipIf_mem (c : Bool) : (s.skipIf c).mem = s.mem := rfl
@[simp] theorem State.skipIf_V (c : Bool) : (s.skipIf c).V = s.V := rfl
@[simp] theorem State.skipIf_I (c : Bool) : (s.skipIf c).I = s.I := rfl
@[simp] theorem State.skipIf_pc (c : Bool) : (s.skipIf c).pc = if c then s.pc + 4 else s.pc + 2 := rfl
@[simp] theorem State.skipIf_stack (c : Bool) : (s.skipIf c).stack = s.stack := rfl
@[simp] theorem State.skipIf_fb (c : Bool) : (s.skipIf c).fb = s.fb := rfl
@[simp] theorem State.skipIf_keys (c : Bool) : (s.skipIf c).keys = s.keys := rfl
@[simp] theorem State.skipIf_DT (c : Bool) : (s.skipIf c).DT = s.DT := rfl
@[simp] theorem State.skipIf_ST (c : Bool) : (s.skipIf c).ST = s.ST := rfl
@[simp] theorem State.skipIf_run (c : Bool) : (s.skipIf c).run = s.run := rfl
@[simp] theorem State.skipIf_wait (c : Bool) : (s.skipIf c).wait = s.wait := rfl
@[simp] theorem State.skipIf_edge (c : Bool) : (s.skipIf c).edge = s.edge := rfl
@[simp] theorem State.skipIf_err (c : Bool) : (s.skipIf c).err = s.err := rfl
@[simp] theorem State.skipIf_cpuAcc (c : Bool) : (s.skipIf c).cpuAcc = s.cpuAcc := rfl
@[simp] theorem State.skipIf_tmrAcc (c : Bool) : (s.skipIf c).tmrAcc = s.tmrAcc := rfl
@[simp] theorem State.skipIf_image (c : Bool) : (s.skipIf c).image = s.image := rfl
@[simp] theorem State.skipIf_cfg (c : Bool) : (s.skipIf c).cfg = s.cfg := rfl
@[simp] theorem State.skipIf_draws (c : Bool) : (s.skipIf c).draws = s.draws := rfl
@[simp] theorem State.skipIf_slots (c : Bool) : (s.skipIf c).slots = s.slots := rfl
@[simp] theorem State.skipIf_inbox (c : Bool) : (s.skipIf c).inbox = s.inbox := rfl
@[simp] theorem State.skipIf_reg (c : Bool) (r : RegIdx) : (s.skipIf c).reg r = s.reg r := rfl
@[simp] theorem State.skipIf_byteAt (c : Bool) (addr : Nat) : (s.skipIf c).byteAt addr = s.byteAt addr := rfl

/-! ## `halt` -/

@[simp] theorem State.halt_mem (e : ErrorRecord) : (s.halt e).mem = s.mem := rfl
@[simp] theorem State.halt_V (e : ErrorRecord) : (s.halt e).V = s.V := rfl
@[simp] theorem State.halt_I (e : ErrorRecord) : (s.halt e).I = s.I := rfl
@[simp] theorem State.halt_pc (e : ErrorRecord) : (s.halt e).pc = s.pc := rfl
@[simp] theorem State.halt_stack (e : ErrorRecord) : (s.halt e).stack = s.stack := rfl
@[simp] theorem State.halt_fb (e : ErrorRecord) : (s.halt e).fb = s.fb := rfl
@[simp] theorem State.halt_keys (e : ErrorRecord) : (s.halt e).keys = s.keys := rfl
@[simp] theorem State.halt_DT (e : ErrorRecord) : (s.halt e).DT = s.DT := rfl
@[simp] theorem State.halt_ST (e : ErrorRecord) : (s.halt e).ST = s.ST := rfl
@[simp] theorem State.halt_run (e : ErrorRecord) : (s.halt e).run = .halted := rfl
@[simp] theorem State.halt_wait (e : ErrorRecord) : (s.halt e).wait = s.wait := rfl
@[simp] theorem State.halt_edge (e : ErrorRecord) : (s.halt e).edge = s.edge := rfl
@[simp] theorem State.halt_err (e : ErrorRecord) : (s.halt e).err = some e := rfl
@[simp] theorem State.halt_cpuAcc (e : ErrorRecord) : (s.halt e).cpuAcc = s.cpuAcc := rfl
@[simp] theorem State.halt_tmrAcc (e : ErrorRecord) : (s.halt e).tmrAcc = s.tmrAcc := rfl
@[simp] theorem State.halt_image (e : ErrorRecord) : (s.halt e).image = s.image := rfl
@[simp] theorem State.halt_cfg (e : ErrorRecord) : (s.halt e).cfg = s.cfg := rfl
@[simp] theorem State.halt_draws (e : ErrorRecord) : (s.halt e).draws = s.draws := rfl
@[simp] theorem State.halt_slots (e : ErrorRecord) : (s.halt e).slots = s.slots := rfl
@[simp] theorem State.halt_inbox (e : ErrorRecord) : (s.halt e).inbox = s.inbox := rfl
@[simp] theorem State.halt_reg (e : ErrorRecord) (r : RegIdx) : (s.halt e).reg r = s.reg r := rfl
@[simp] theorem State.halt_byteAt (e : ErrorRecord) (addr : Nat) : (s.halt e).byteAt addr = s.byteAt addr := rfl

/-! ## `push` -/

@[simp] theorem State.push_mem (a : Word) : (s.push a).mem = s.mem := rfl
@[simp] theorem State.push_V (a : Word) : (s.push a).V = s.V := rfl
@[simp] theorem State.push_I (a : Word) : (s.push a).I = s.I := rfl
@[simp] theorem State.push_pc (a : Word) : (s.push a).pc = s.pc := rfl
@[simp] theorem State.push_stack (a : Word) : (s.push a).stack = s.stack ++ [a] := rfl
@[simp] theorem State.push_fb (a : Word) : (s.push a).fb = s.fb := rfl
@[simp] theorem State.push_keys (a : Word) : (s.push a).keys = s.keys := rfl
@[simp] theorem State.push_DT (a : Word) : (s.push a).DT = s.DT := rfl
@[simp] theorem State.push_ST (a : Word) : (s.push a).ST = s.ST := rfl
@[simp] theorem State.push_run (a : Word) : (s.push a).run = s.run := rfl
@[simp] theorem State.push_wait (a : Word) : (s.push a).wait = s.wait := rfl
@[simp] theorem State.push_edge (a : Word) : (s.push a).edge = s.edge := rfl
@[simp] theorem State.push_err (a : Word) : (s.push a).err = s.err := rfl
@[simp] theorem State.push_cpuAcc (a : Word) : (s.push a).cpuAcc = s.cpuAcc := rfl
@[simp] theorem State.push_tmrAcc (a : Word) : (s.push a).tmrAcc = s.tmrAcc := rfl
@[simp] theorem State.push_image (a : Word) : (s.push a).image = s.image := rfl
@[simp] theorem State.push_cfg (a : Word) : (s.push a).cfg = s.cfg := rfl
@[simp] theorem State.push_draws (a : Word) : (s.push a).draws = s.draws := rfl
@[simp] theorem State.push_slots (a : Word) : (s.push a).slots = s.slots := rfl
@[simp] theorem State.push_inbox (a : Word) : (s.push a).inbox = s.inbox := rfl
@[simp] theorem State.push_reg (a : Word) (r : RegIdx) : (s.push a).reg r = s.reg r := rfl
@[simp] theorem State.push_byteAt (a : Word) (addr : Nat) : (s.push a).byteAt addr = s.byteAt addr := rfl

/-! ## `dropTop` -/

@[simp] theorem State.dropTop_mem : s.dropTop.mem = s.mem := rfl
@[simp] theorem State.dropTop_V : s.dropTop.V = s.V := rfl
@[simp] theorem State.dropTop_I : s.dropTop.I = s.I := rfl
@[simp] theorem State.dropTop_pc : s.dropTop.pc = s.pc := rfl
@[simp] theorem State.dropTop_stack : s.dropTop.stack = s.stack.dropLast := rfl
@[simp] theorem State.dropTop_fb : s.dropTop.fb = s.fb := rfl
@[simp] theorem State.dropTop_keys : s.dropTop.keys = s.keys := rfl
@[simp] theorem State.dropTop_DT : s.dropTop.DT = s.DT := rfl
@[simp] theorem State.dropTop_ST : s.dropTop.ST = s.ST := rfl
@[simp] theorem State.dropTop_run : s.dropTop.run = s.run := rfl
@[simp] theorem State.dropTop_wait : s.dropTop.wait = s.wait := rfl
@[simp] theorem State.dropTop_edge : s.dropTop.edge = s.edge := rfl
@[simp] theorem State.dropTop_err : s.dropTop.err = s.err := rfl
@[simp] theorem State.dropTop_cpuAcc : s.dropTop.cpuAcc = s.cpuAcc := rfl
@[simp] theorem State.dropTop_tmrAcc : s.dropTop.tmrAcc = s.tmrAcc := rfl
@[simp] theorem State.dropTop_image : s.dropTop.image = s.image := rfl
@[simp] theorem State.dropTop_cfg : s.dropTop.cfg = s.cfg := rfl
@[simp] theorem State.dropTop_draws : s.dropTop.draws = s.draws := rfl
@[simp] theorem State.dropTop_slots : s.dropTop.slots = s.slots := rfl
@[simp] theorem State.dropTop_inbox : s.dropTop.inbox = s.inbox := rfl
@[simp] theorem State.dropTop_reg (r : RegIdx) : s.dropTop.reg r = s.reg r := rfl
@[simp] theorem State.dropTop_byteAt (addr : Nat) : s.dropTop.byteAt addr = s.byteAt addr := rfl

/-! ## `storeBytes` -/

@[simp] theorem State.storeBytes_mem (a : Nat) (bs : List Byte) : (s.storeBytes a bs).mem = s.mem.writeBytes a bs := rfl
@[simp] theorem State.storeBytes_V (a : Nat) (bs : List Byte) : (s.storeBytes a bs).V = s.V := rfl
@[simp] theorem State.storeBytes_I (a : Nat) (bs : List Byte) : (s.storeBytes a bs).I = s.I := rfl
@[simp] theorem State.storeBytes_pc (a : Nat) (bs : List Byte) : (s.storeBytes a bs).pc = s.pc := rfl
@[simp] theorem State.storeBytes_stack (a : Nat) (bs : List Byte) : (s.storeBytes a bs).stack = s.stack := rfl
@[simp] theorem State.storeBytes_fb (a : Nat) (bs : List Byte) : (s.storeBytes a bs).fb = s.fb := rfl
@[simp] theorem State.storeBytes_keys (a : Nat) (bs : List Byte) : (s.storeBytes a bs).keys = s.keys := rfl
@[simp] theorem State.storeBytes_DT (a : Nat) (bs : List Byte) : (s.storeBytes a bs).DT = s.DT := rfl
@[simp] theorem State.storeBytes_ST (a : Nat) (bs : List Byte) : (s.storeBytes a bs).ST = s.ST := rfl
@[simp] theorem State.storeBytes_run (a : Nat) (bs : List Byte) : (s.storeBytes a bs).run = s.run := rfl
@[simp] theorem State.storeBytes_wait (a : Nat) (bs : List Byte) : (s.storeBytes a bs).wait = s.wait := rfl
@[simp] theorem State.storeBytes_edge (a : Nat) (bs : List Byte) : (s.storeBytes a bs).edge = s.edge := rfl
@[simp] theorem State.storeBytes_err (a : Nat) (bs : List Byte) : (s.storeBytes a bs).err = s.err := rfl
@[simp] theorem State.storeBytes_cpuAcc (a : Nat) (bs : List Byte) : (s.storeBytes a bs).cpuAcc = s.cpuAcc := rfl
@[simp] theorem State.storeBytes_tmrAcc (a : Nat) (bs : List Byte) : (s.storeBytes a bs).tmrAcc = s.tmrAcc := rfl
@[simp] theorem State.storeBytes_image (a : Nat) (bs : List Byte) : (s.storeBytes a bs).image = s.image := rfl
@[simp] theorem State.storeBytes_cfg (a : Nat) (bs : List Byte) : (s.storeBytes a bs).cfg = s.cfg := rfl
@[simp] theorem State.storeBytes_draws (a : Nat) (bs : List Byte) : (s.storeBytes a bs).draws = s.draws := rfl
@[simp] theorem State.storeBytes_slots (a : Nat) (bs : List Byte) : (s.storeBytes a bs).slots = s.slots := rfl
@[simp] theorem State.storeBytes_inbox (a : Nat) (bs : List Byte) : (s.storeBytes a bs).inbox = s.inbox := rfl
@[simp] theorem State.storeBytes_reg (a : Nat) (bs : List Byte) (r : RegIdx) : (s.storeBytes a bs).reg r = s.reg r := rfl

/-! ## `loadRegs` -/

@[simp] theorem State.loadRegs_mem (x : RegIdx) : (s.loadRegs x).mem = s.mem := rfl
@[simp] theorem State.loadRegs_I (x : RegIdx) : (s.loadRegs x).I = s.I := rfl
@[simp] theorem State.loadRegs_pc (x : RegIdx) : (s.loadRegs x).pc = s.pc := rfl
@[simp] theorem State.loadRegs_stack (x : RegIdx) : (s.loadRegs x).stack = s.stack := rfl
@[simp] theorem State.loadRegs_fb (x : RegIdx) : (s.loadRegs x).fb = s.fb := rfl
@[simp] theorem State.loadRegs_keys (x : RegIdx) : (s.loadRegs x).keys = s.keys := rfl
@[simp] theorem State.loadRegs_DT (x : RegIdx) : (s.loadRegs x).DT = s.DT := rfl
@[simp] theorem State.loadRegs_ST (x : RegIdx) : (s.loadRegs x).ST = s.ST := rfl
@[simp] theorem State.loadRegs_run (x : RegIdx) : (s.loadRegs x).run = s.run := rfl
@[simp] theorem State.loadRegs_wait (x : RegIdx) : (s.loadRegs x).wait = s.wait := rfl
@[simp] theorem State.loadRegs_edge (x : RegIdx) : (s.loadRegs x).edge = s.edge := rfl
@[simp] theorem State.loadRegs_err (x : RegIdx) : (s.loadRegs x).err = s.err := rfl
@[simp] theorem State.loadRegs_cpuAcc (x : RegIdx) : (s.loadRegs x).cpuAcc = s.cpuAcc := rfl
@[simp] theorem State.loadRegs_tmrAcc (x : RegIdx) : (s.loadRegs x).tmrAcc = s.tmrAcc := rfl
@[simp] theorem State.loadRegs_image (x : RegIdx) : (s.loadRegs x).image = s.image := rfl
@[simp] theorem State.loadRegs_cfg (x : RegIdx) : (s.loadRegs x).cfg = s.cfg := rfl
@[simp] theorem State.loadRegs_draws (x : RegIdx) : (s.loadRegs x).draws = s.draws := rfl
@[simp] theorem State.loadRegs_slots (x : RegIdx) : (s.loadRegs x).slots = s.slots := rfl
@[simp] theorem State.loadRegs_inbox (x : RegIdx) : (s.loadRegs x).inbox = s.inbox := rfl
@[simp] theorem State.loadRegs_byteAt (x : RegIdx) (addr : Nat) : (s.loadRegs x).byteAt addr = s.byteAt addr := rfl

/-! ## `setFlagThen` -/

@[simp] theorem State.setFlagThen_mem (x : RegIdx) (f : Bool) (b : Byte) : (s.setFlagThen x f b).mem = s.mem := rfl
@[simp] theorem State.setFlagThen_I (x : RegIdx) (f : Bool) (b : Byte) : (s.setFlagThen x f b).I = s.I := rfl
@[simp] theorem State.setFlagThen_pc (x : RegIdx) (f : Bool) (b : Byte) : (s.setFlagThen x f b).pc = s.pc := rfl
@[simp] theorem State.setFlagThen_stack (x : RegIdx) (f : Bool) (b : Byte) : (s.setFlagThen x f b).stack = s.stack := rfl
@[simp] theorem State.setFlagThen_fb (x : RegIdx) (f : Bool) (b : Byte) : (s.setFlagThen x f b).fb = s.fb := rfl
@[simp] theorem State.setFlagThen_keys (x : RegIdx) (f : Bool) (b : Byte) : (s.setFlagThen x f b).keys = s.keys := rfl
@[simp] theorem State.setFlagThen_DT (x : RegIdx) (f : Bool) (b : Byte) : (s.setFlagThen x f b).DT = s.DT := rfl
@[simp] theorem State.setFlagThen_ST (x : RegIdx) (f : Bool) (b : Byte) : (s.setFlagThen x f b).ST = s.ST := rfl
@[simp] theorem State.setFlagThen_run (x : RegIdx) (f : Bool) (b : Byte) : (s.setFlagThen x f b).run = s.run := rfl
@[simp] theorem State.setFlagThen_wait (x : RegIdx) (f : Bool) (b : Byte) : (s.setFlagThen x f b).wait = s.wait := rfl
@[simp] theorem State.setFlagThen_edge (x : RegIdx) (f : Bool) (b : Byte) : (s.setFlagThen x f b).edge = s.edge := rfl
@[simp] theorem State.setFlagThen_err (x : RegIdx) (f : Bool) (b : Byte) : (s.setFlagThen x f b).err = s.err := rfl
@[simp] theorem State.setFlagThen_cpuAcc (x : RegIdx) (f : Bool) (b : Byte) : (s.setFlagThen x f b).cpuAcc = s.cpuAcc := rfl
@[simp] theorem State.setFlagThen_tmrAcc (x : RegIdx) (f : Bool) (b : Byte) : (s.setFlagThen x f b).tmrAcc = s.tmrAcc := rfl
@[simp] theorem State.setFlagThen_image (x : RegIdx) (f : Bool) (b : Byte) : (s.setFlagThen x f b).image = s.image := rfl
@[simp] theorem State.setFlagThen_cfg (x : RegIdx) (f : Bool) (b : Byte) : (s.setFlagThen x f b).cfg = s.cfg := rfl
@[simp] theorem State.setFlagThen_draws (x : RegIdx) (f : Bool) (b : Byte) : (s.setFlagThen x f b).draws = s.draws := rfl
@[simp] theorem State.setFlagThen_slots (x : RegIdx) (f : Bool) (b : Byte) : (s.setFlagThen x f b).slots = s.slots := rfl
@[simp] theorem State.setFlagThen_inbox (x : RegIdx) (f : Bool) (b : Byte) : (s.setFlagThen x f b).inbox = s.inbox := rfl
@[simp] theorem State.setFlagThen_byteAt (x : RegIdx) (f : Bool) (b : Byte) (addr : Nat) : (s.setFlagThen x f b).byteAt addr = s.byteAt addr := rfl

/-! ## `consumeByte` -/

@[simp] theorem State.consumeByte_mem : s.consumeByte.mem = s.mem := rfl
@[simp] theorem State.consumeByte_V : s.consumeByte.V = s.V := rfl
@[simp] theorem State.consumeByte_I : s.consumeByte.I = s.I := rfl
@[simp] theorem State.consumeByte_pc : s.consumeByte.pc = s.pc := rfl
@[simp] theorem State.consumeByte_stack : s.consumeByte.stack = s.stack := rfl
@[simp] theorem State.consumeByte_fb : s.consumeByte.fb = s.fb := rfl
@[simp] theorem State.consumeByte_keys : s.consumeByte.keys = s.keys := rfl
@[simp] theorem State.consumeByte_DT : s.consumeByte.DT = s.DT := rfl
@[simp] theorem State.consumeByte_ST : s.consumeByte.ST = s.ST := rfl
@[simp] theorem State.consumeByte_run : s.consumeByte.run = s.run := rfl
@[simp] theorem State.consumeByte_wait : s.consumeByte.wait = s.wait := rfl
@[simp] theorem State.consumeByte_edge : s.consumeByte.edge = s.edge := rfl
@[simp] theorem State.consumeByte_err : s.consumeByte.err = s.err := rfl
@[simp] theorem State.consumeByte_cpuAcc : s.consumeByte.cpuAcc = s.cpuAcc := rfl
@[simp] theorem State.consumeByte_tmrAcc : s.consumeByte.tmrAcc = s.tmrAcc := rfl
@[simp] theorem State.consumeByte_image : s.consumeByte.image = s.image := rfl
@[simp] theorem State.consumeByte_cfg : s.consumeByte.cfg = s.cfg := rfl
@[simp] theorem State.consumeByte_draws : s.consumeByte.draws = s.draws + 1 := rfl
@[simp] theorem State.consumeByte_slots : s.consumeByte.slots = s.slots := rfl
@[simp] theorem State.consumeByte_inbox : s.consumeByte.inbox = s.inbox := rfl
@[simp] theorem State.consumeByte_reg (r : RegIdx) : s.consumeByte.reg r = s.reg r := rfl
@[simp] theorem State.consumeByte_byteAt (addr : Nat) : s.consumeByte.byteAt addr = s.byteAt addr := rfl

/-! ## `setFb` -/

@[simp] theorem State.setFb_mem (b : DisplayBuffer) : (s.setFb b).mem = s.mem := rfl
@[simp] theorem State.setFb_V (b : DisplayBuffer) : (s.setFb b).V = s.V := rfl
@[simp] theorem State.setFb_I (b : DisplayBuffer) : (s.setFb b).I = s.I := rfl
@[simp] theorem State.setFb_pc (b : DisplayBuffer) : (s.setFb b).pc = s.pc := rfl
@[simp] theorem State.setFb_stack (b : DisplayBuffer) : (s.setFb b).stack = s.stack := rfl
@[simp] theorem State.setFb_fb (b : DisplayBuffer) : (s.setFb b).fb = b := rfl
@[simp] theorem State.setFb_keys (b : DisplayBuffer) : (s.setFb b).keys = s.keys := rfl
@[simp] theorem State.setFb_DT (b : DisplayBuffer) : (s.setFb b).DT = s.DT := rfl
@[simp] theorem State.setFb_ST (b : DisplayBuffer) : (s.setFb b).ST = s.ST := rfl
@[simp] theorem State.setFb_run (b : DisplayBuffer) : (s.setFb b).run = s.run := rfl
@[simp] theorem State.setFb_wait (b : DisplayBuffer) : (s.setFb b).wait = s.wait := rfl
@[simp] theorem State.setFb_edge (b : DisplayBuffer) : (s.setFb b).edge = s.edge := rfl
@[simp] theorem State.setFb_err (b : DisplayBuffer) : (s.setFb b).err = s.err := rfl
@[simp] theorem State.setFb_cpuAcc (b : DisplayBuffer) : (s.setFb b).cpuAcc = s.cpuAcc := rfl
@[simp] theorem State.setFb_tmrAcc (b : DisplayBuffer) : (s.setFb b).tmrAcc = s.tmrAcc := rfl
@[simp] theorem State.setFb_image (b : DisplayBuffer) : (s.setFb b).image = s.image := rfl
@[simp] theorem State.setFb_cfg (b : DisplayBuffer) : (s.setFb b).cfg = s.cfg := rfl
@[simp] theorem State.setFb_draws (b : DisplayBuffer) : (s.setFb b).draws = s.draws := rfl
@[simp] theorem State.setFb_slots (b : DisplayBuffer) : (s.setFb b).slots = s.slots := rfl
@[simp] theorem State.setFb_inbox (b : DisplayBuffer) : (s.setFb b).inbox = s.inbox := rfl
@[simp] theorem State.setFb_reg (b : DisplayBuffer) (r : RegIdx) : (s.setFb b).reg r = s.reg r := rfl
@[simp] theorem State.setFb_byteAt (b : DisplayBuffer) (addr : Nat) : (s.setFb b).byteAt addr = s.byteAt addr := rfl

/-! ## `draw` -/

@[simp] theorem State.draw_mem (x y : RegIdx) (n : Fin 16) : (s.draw x y n).mem = s.mem := rfl
@[simp] theorem State.draw_I (x y : RegIdx) (n : Fin 16) : (s.draw x y n).I = s.I := rfl
@[simp] theorem State.draw_pc (x y : RegIdx) (n : Fin 16) : (s.draw x y n).pc = s.pc := rfl
@[simp] theorem State.draw_stack (x y : RegIdx) (n : Fin 16) : (s.draw x y n).stack = s.stack := rfl
@[simp] theorem State.draw_keys (x y : RegIdx) (n : Fin 16) : (s.draw x y n).keys = s.keys := rfl
@[simp] theorem State.draw_DT (x y : RegIdx) (n : Fin 16) : (s.draw x y n).DT = s.DT := rfl
@[simp] theorem State.draw_ST (x y : RegIdx) (n : Fin 16) : (s.draw x y n).ST = s.ST := rfl
@[simp] theorem State.draw_run (x y : RegIdx) (n : Fin 16) : (s.draw x y n).run = s.run := rfl
@[simp] theorem State.draw_wait (x y : RegIdx) (n : Fin 16) : (s.draw x y n).wait = s.wait := rfl
@[simp] theorem State.draw_edge (x y : RegIdx) (n : Fin 16) : (s.draw x y n).edge = s.edge := rfl
@[simp] theorem State.draw_err (x y : RegIdx) (n : Fin 16) : (s.draw x y n).err = s.err := rfl
@[simp] theorem State.draw_cpuAcc (x y : RegIdx) (n : Fin 16) : (s.draw x y n).cpuAcc = s.cpuAcc := rfl
@[simp] theorem State.draw_tmrAcc (x y : RegIdx) (n : Fin 16) : (s.draw x y n).tmrAcc = s.tmrAcc := rfl
@[simp] theorem State.draw_image (x y : RegIdx) (n : Fin 16) : (s.draw x y n).image = s.image := rfl
@[simp] theorem State.draw_cfg (x y : RegIdx) (n : Fin 16) : (s.draw x y n).cfg = s.cfg := rfl
@[simp] theorem State.draw_draws (x y : RegIdx) (n : Fin 16) : (s.draw x y n).draws = s.draws := rfl
@[simp] theorem State.draw_slots (x y : RegIdx) (n : Fin 16) : (s.draw x y n).slots = s.slots := rfl
@[simp] theorem State.draw_inbox (x y : RegIdx) (n : Fin 16) : (s.draw x y n).inbox = s.inbox := rfl
@[simp] theorem State.draw_byteAt (x y : RegIdx) (n : Fin 16) (addr : Nat) : (s.draw x y n).byteAt addr = s.byteAt addr := rfl

/-! ## `setDT` -/

@[simp] theorem State.setDT_mem (b : Byte) : (s.setDT b).mem = s.mem := rfl
@[simp] theorem State.setDT_V (b : Byte) : (s.setDT b).V = s.V := rfl
@[simp] theorem State.setDT_I (b : Byte) : (s.setDT b).I = s.I := rfl
@[simp] theorem State.setDT_pc (b : Byte) : (s.setDT b).pc = s.pc := rfl
@[simp] theorem State.setDT_stack (b : Byte) : (s.setDT b).stack = s.stack := rfl
@[simp] theorem State.setDT_fb (b : Byte) : (s.setDT b).fb = s.fb := rfl
@[simp] theorem State.setDT_keys (b : Byte) : (s.setDT b).keys = s.keys := rfl
@[simp] theorem State.setDT_DT (b : Byte) : (s.setDT b).DT = b := rfl
@[simp] theorem State.setDT_ST (b : Byte) : (s.setDT b).ST = s.ST := rfl
@[simp] theorem State.setDT_run (b : Byte) : (s.setDT b).run = s.run := rfl
@[simp] theorem State.setDT_wait (b : Byte) : (s.setDT b).wait = s.wait := rfl
@[simp] theorem State.setDT_edge (b : Byte) : (s.setDT b).edge = s.edge := rfl
@[simp] theorem State.setDT_err (b : Byte) : (s.setDT b).err = s.err := rfl
@[simp] theorem State.setDT_cpuAcc (b : Byte) : (s.setDT b).cpuAcc = s.cpuAcc := rfl
@[simp] theorem State.setDT_tmrAcc (b : Byte) : (s.setDT b).tmrAcc = s.tmrAcc := rfl
@[simp] theorem State.setDT_image (b : Byte) : (s.setDT b).image = s.image := rfl
@[simp] theorem State.setDT_cfg (b : Byte) : (s.setDT b).cfg = s.cfg := rfl
@[simp] theorem State.setDT_draws (b : Byte) : (s.setDT b).draws = s.draws := rfl
@[simp] theorem State.setDT_slots (b : Byte) : (s.setDT b).slots = s.slots := rfl
@[simp] theorem State.setDT_inbox (b : Byte) : (s.setDT b).inbox = s.inbox := rfl
@[simp] theorem State.setDT_reg (b : Byte) (r : RegIdx) : (s.setDT b).reg r = s.reg r := rfl
@[simp] theorem State.setDT_byteAt (b : Byte) (addr : Nat) : (s.setDT b).byteAt addr = s.byteAt addr := rfl

/-! ## `setST` -/

@[simp] theorem State.setST_mem (b : Byte) : (s.setST b).mem = s.mem := rfl
@[simp] theorem State.setST_V (b : Byte) : (s.setST b).V = s.V := rfl
@[simp] theorem State.setST_I (b : Byte) : (s.setST b).I = s.I := rfl
@[simp] theorem State.setST_pc (b : Byte) : (s.setST b).pc = s.pc := rfl
@[simp] theorem State.setST_stack (b : Byte) : (s.setST b).stack = s.stack := rfl
@[simp] theorem State.setST_fb (b : Byte) : (s.setST b).fb = s.fb := rfl
@[simp] theorem State.setST_keys (b : Byte) : (s.setST b).keys = s.keys := rfl
@[simp] theorem State.setST_DT (b : Byte) : (s.setST b).DT = s.DT := rfl
@[simp] theorem State.setST_ST (b : Byte) : (s.setST b).ST = b := rfl
@[simp] theorem State.setST_run (b : Byte) : (s.setST b).run = s.run := rfl
@[simp] theorem State.setST_wait (b : Byte) : (s.setST b).wait = s.wait := rfl
@[simp] theorem State.setST_edge (b : Byte) : (s.setST b).edge = s.edge := rfl
@[simp] theorem State.setST_err (b : Byte) : (s.setST b).err = s.err := rfl
@[simp] theorem State.setST_cpuAcc (b : Byte) : (s.setST b).cpuAcc = s.cpuAcc := rfl
@[simp] theorem State.setST_tmrAcc (b : Byte) : (s.setST b).tmrAcc = s.tmrAcc := rfl
@[simp] theorem State.setST_image (b : Byte) : (s.setST b).image = s.image := rfl
@[simp] theorem State.setST_cfg (b : Byte) : (s.setST b).cfg = s.cfg := rfl
@[simp] theorem State.setST_draws (b : Byte) : (s.setST b).draws = s.draws := rfl
@[simp] theorem State.setST_slots (b : Byte) : (s.setST b).slots = s.slots := rfl
@[simp] theorem State.setST_inbox (b : Byte) : (s.setST b).inbox = s.inbox := rfl
@[simp] theorem State.setST_reg (b : Byte) (r : RegIdx) : (s.setST b).reg r = s.reg r := rfl
@[simp] theorem State.setST_byteAt (b : Byte) (addr : Nat) : (s.setST b).byteAt addr = s.byteAt addr := rfl

/-! ## `setWait` -/

@[simp] theorem State.setWait_mem (w : Option RegIdx) (k : Option Key) : (s.setWait w k).mem = s.mem := rfl
@[simp] theorem State.setWait_V (w : Option RegIdx) (k : Option Key) : (s.setWait w k).V = s.V := rfl
@[simp] theorem State.setWait_I (w : Option RegIdx) (k : Option Key) : (s.setWait w k).I = s.I := rfl
@[simp] theorem State.setWait_pc (w : Option RegIdx) (k : Option Key) : (s.setWait w k).pc = s.pc := rfl
@[simp] theorem State.setWait_stack (w : Option RegIdx) (k : Option Key) : (s.setWait w k).stack = s.stack := rfl
@[simp] theorem State.setWait_fb (w : Option RegIdx) (k : Option Key) : (s.setWait w k).fb = s.fb := rfl
@[simp] theorem State.setWait_keys (w : Option RegIdx) (k : Option Key) : (s.setWait w k).keys = s.keys := rfl
@[simp] theorem State.setWait_DT (w : Option RegIdx) (k : Option Key) : (s.setWait w k).DT = s.DT := rfl
@[simp] theorem State.setWait_ST (w : Option RegIdx) (k : Option Key) : (s.setWait w k).ST = s.ST := rfl
@[simp] theorem State.setWait_run (w : Option RegIdx) (k : Option Key) : (s.setWait w k).run = s.run := rfl
@[simp] theorem State.setWait_wait (w : Option RegIdx) (k : Option Key) : (s.setWait w k).wait = w := rfl
@[simp] theorem State.setWait_edge (w : Option RegIdx) (k : Option Key) : (s.setWait w k).edge = k := rfl
@[simp] theorem State.setWait_err (w : Option RegIdx) (k : Option Key) : (s.setWait w k).err = s.err := rfl
@[simp] theorem State.setWait_cpuAcc (w : Option RegIdx) (k : Option Key) : (s.setWait w k).cpuAcc = s.cpuAcc := rfl
@[simp] theorem State.setWait_tmrAcc (w : Option RegIdx) (k : Option Key) : (s.setWait w k).tmrAcc = s.tmrAcc := rfl
@[simp] theorem State.setWait_image (w : Option RegIdx) (k : Option Key) : (s.setWait w k).image = s.image := rfl
@[simp] theorem State.setWait_cfg (w : Option RegIdx) (k : Option Key) : (s.setWait w k).cfg = s.cfg := rfl
@[simp] theorem State.setWait_draws (w : Option RegIdx) (k : Option Key) : (s.setWait w k).draws = s.draws := rfl
@[simp] theorem State.setWait_slots (w : Option RegIdx) (k : Option Key) : (s.setWait w k).slots = s.slots := rfl
@[simp] theorem State.setWait_inbox (w : Option RegIdx) (k : Option Key) : (s.setWait w k).inbox = s.inbox := rfl
@[simp] theorem State.setWait_reg (w : Option RegIdx) (k : Option Key) (r : RegIdx) : (s.setWait w k).reg r = s.reg r := rfl
@[simp] theorem State.setWait_byteAt (w : Option RegIdx) (k : Option Key) (addr : Nat) : (s.setWait w k).byteAt addr = s.byteAt addr := rfl


/-! ## `tick`: nothing but the timers -/

@[simp] theorem State.tick_mem : (tick s).mem = s.mem := rfl
@[simp] theorem State.tick_V : (tick s).V = s.V := rfl
@[simp] theorem State.tick_I : (tick s).I = s.I := rfl
@[simp] theorem State.tick_pc : (tick s).pc = s.pc := rfl
@[simp] theorem State.tick_stack : (tick s).stack = s.stack := rfl
@[simp] theorem State.tick_fb : (tick s).fb = s.fb := rfl
@[simp] theorem State.tick_keys : (tick s).keys = s.keys := rfl
@[simp] theorem State.tick_DT : (tick s).DT = countDown s.DT := rfl
@[simp] theorem State.tick_ST : (tick s).ST = countDown s.ST := rfl
@[simp] theorem State.tick_run : (tick s).run = s.run := rfl
@[simp] theorem State.tick_wait : (tick s).wait = s.wait := rfl
@[simp] theorem State.tick_edge : (tick s).edge = s.edge := rfl
@[simp] theorem State.tick_err : (tick s).err = s.err := rfl
@[simp] theorem State.tick_cpuAcc : (tick s).cpuAcc = s.cpuAcc := rfl
@[simp] theorem State.tick_tmrAcc : (tick s).tmrAcc = s.tmrAcc := rfl
@[simp] theorem State.tick_image : (tick s).image = s.image := rfl
@[simp] theorem State.tick_cfg : (tick s).cfg = s.cfg := rfl
@[simp] theorem State.tick_draws : (tick s).draws = s.draws := rfl
@[simp] theorem State.tick_slots : (tick s).slots = s.slots := rfl
@[simp] theorem State.tick_inbox : (tick s).inbox = s.inbox := rfl
@[simp] theorem State.tick_reg (r : RegIdx) : (tick s).reg r = s.reg r := rfl
@[simp] theorem State.tick_byteAt (a : Nat) : (tick s).byteAt a = s.byteAt a := rfl

/-! ## `popEvent`: nothing but the lists of what is to come -/

@[simp] theorem State.popEvent_mem : s.popEvent.mem = s.mem := by unfold State.popEvent; split <;> [rfl; (split <;> rfl)]
@[simp] theorem State.popEvent_V : s.popEvent.V = s.V := by unfold State.popEvent; split <;> [rfl; (split <;> rfl)]
@[simp] theorem State.popEvent_I : s.popEvent.I = s.I := by unfold State.popEvent; split <;> [rfl; (split <;> rfl)]
@[simp] theorem State.popEvent_pc : s.popEvent.pc = s.pc := by unfold State.popEvent; split <;> [rfl; (split <;> rfl)]
@[simp] theorem State.popEvent_stack : s.popEvent.stack = s.stack := by unfold State.popEvent; split <;> [rfl; (split <;> rfl)]
@[simp] theorem State.popEvent_fb : s.popEvent.fb = s.fb := by unfold State.popEvent; split <;> [rfl; (split <;> rfl)]
@[simp] theorem State.popEvent_keys : s.popEvent.keys = s.keys := by unfold State.popEvent; split <;> [rfl; (split <;> rfl)]
@[simp] theorem State.popEvent_DT : s.popEvent.DT = s.DT := by unfold State.popEvent; split <;> [rfl; (split <;> rfl)]
@[simp] theorem State.popEvent_ST : s.popEvent.ST = s.ST := by unfold State.popEvent; split <;> [rfl; (split <;> rfl)]
@[simp] theorem State.popEvent_run : s.popEvent.run = s.run := by unfold State.popEvent; split <;> [rfl; (split <;> rfl)]
@[simp] theorem State.popEvent_wait : s.popEvent.wait = s.wait := by unfold State.popEvent; split <;> [rfl; (split <;> rfl)]
@[simp] theorem State.popEvent_edge : s.popEvent.edge = s.edge := by unfold State.popEvent; split <;> [rfl; (split <;> rfl)]
@[simp] theorem State.popEvent_err : s.popEvent.err = s.err := by unfold State.popEvent; split <;> [rfl; (split <;> rfl)]
@[simp] theorem State.popEvent_cpuAcc : s.popEvent.cpuAcc = s.cpuAcc := by unfold State.popEvent; split <;> [rfl; (split <;> rfl)]
@[simp] theorem State.popEvent_tmrAcc : s.popEvent.tmrAcc = s.tmrAcc := by unfold State.popEvent; split <;> [rfl; (split <;> rfl)]
@[simp] theorem State.popEvent_image : s.popEvent.image = s.image := by unfold State.popEvent; split <;> [rfl; (split <;> rfl)]
@[simp] theorem State.popEvent_cfg : s.popEvent.cfg = s.cfg := by unfold State.popEvent; split <;> [rfl; (split <;> rfl)]
@[simp] theorem State.popEvent_draws : s.popEvent.draws = s.draws := by unfold State.popEvent; split <;> [rfl; (split <;> rfl)]
@[simp] theorem State.popEvent_reg (r : RegIdx) : s.popEvent.reg r = s.reg r := by simp [State.reg]
@[simp] theorem State.popEvent_byteAt (a : Nat) : s.popEvent.byteAt a = s.byteAt a := by simp [State.byteAt]

/-! ## Registers and bytes after an update -/

theorem State.reg_of_V {s t : State} (h : t.V = s.V) (x : RegIdx) : t.reg x = s.reg x := by simp [State.reg, h]

theorem State.byteAt_of_mem {s t : State} (h : t.mem = s.mem) (a : Nat) : t.byteAt a = s.byteAt a := by
  simp [State.byteAt, h]

/-- `V[x] <- b` changes register x alone (R11). -/
@[simp] theorem State.reg_setReg (x : RegIdx) (b : Byte) (r : RegIdx) :
    (s.setReg x b).reg r = if r = x then b else s.reg r := by
  simp only [State.reg, State.setReg, Fin.getElem_fin, Vector.getElem_set, Fin.ext_iff, eq_comm]

/-- VF first, the result second: the result wins when both name one register (R110). -/
@[simp] theorem State.reg_setFlagThen (x : RegIdx) (f : Bool) (b : Byte) (r : RegIdx) :
    (s.setFlagThen x f b).reg r = if r = x then b else if r = VF then flagByte f else s.reg r := by
  simp only [State.setFlagThen, State.reg_setReg]

/-- A block load writes V0..Vx (R103). -/
@[simp] theorem State.reg_loadRegs (x r : RegIdx) :
    (s.loadRegs x).reg r = if r ≤ x then s.byteAt (s.I.toNat + r.val) else s.reg r := by
  simp [State.reg, State.loadRegs, State.dataAddr]

/-- A drawing writes VF alone (R133). -/
@[simp] theorem State.reg_draw (x y : RegIdx) (n : Fin 16) (r : RegIdx) :
    (s.draw x y n).reg r =
      if r = VF then flagByte (blit s.fb (originX (s.reg x)) (originY (s.reg y)) (s.spriteRows n)).2 else s.reg r := by
  simp [State.draw]

@[simp] theorem State.fb_draw (x y : RegIdx) (n : Fin 16) :
    (s.draw x y n).fb = (blit s.fb (originX (s.reg x)) (originY (s.reg y)) (s.spriteRows n)).1 := rfl

/-- A store writes the bytes at its addresses alone (R42). -/
theorem State.byteAt_storeBytes (base : Nat) (bs : List Byte) (a : Nat) :
    (s.storeBytes base bs).byteAt a = if base ≤ a then bs.getD (a - base) (s.byteAt a) else s.byteAt a :=
  Memory.read_writeBytes ..

/-- The i-th byte the block store writes is Vi (R104). -/
theorem State.regsUpTo_getD (x : RegIdx) (i : Nat) (d : Byte) :
    (s.regsUpTo x).getD i d = if h : i ≤ x.val then s.reg ⟨i, by omega⟩ else d := by
  have hx := x.isLt
  unfold State.regsUpTo State.reg
  rw [List.getD_eq_getElem?_getD, List.getElem?_take]
  by_cases h : i ≤ x.val
  · have hi : i < 16 := by omega
    simp [h, hi, Nat.lt_succ_of_le h]
  · simp [h, show ¬ i < x.val + 1 by omega]

@[simp] theorem State.regsUpTo_getElem (x : RegIdx) (i : Nat) (h : i < (s.regsUpTo x).length) :
    (s.regsUpTo x)[i] = s.reg ⟨i, by simp [State.regsUpTo] at h; omega⟩ := by
  simp [State.regsUpTo, State.reg]

@[simp] theorem State.regsUpTo_length (x : RegIdx) : (s.regsUpTo x).length = x.val + 1 := by
  have hx := x.isLt
  simp only [State.regsUpTo, List.length_take, Vector.length_toList]; omega

end Sys2Proof.Machine
end

