-- ==== Sys2Proof/Laws/Ops.lean ====
section
/-! SUPPORT. What each shared operation can do, said once: range checks, fatal errors, the stack, memory transfers. -/

namespace Sys2Proof.Machine

/-- `firstOutOfRange` is the lowest address above 0xFFF (R192). -/
theorem firstOutOfRange_eq (base n : Nat) :
    firstOutOfRange base n =
      if n = 0 ∨ base + n ≤ 0x1000 then none else some (if base ≤ 0xFFF then 0x1000 else base) := by
  unfold firstOutOfRange
  grind

/-- A range check raises the error of R192 or lets the instruction go on. -/
theorem guardRange_eq (s : State) (base n : Nat) (go : Result) :
    guardRange s base n go = match rangeError s base n with
      | some e => .next (s.halt e)
      | none => go := by
  rw [guardRange, firstOutOfRange_eq, rangeError]
  by_cases h : n = 0 ∨ base + n ≤ 0x1000 <;> simp only [h, if_true, if_false, raise]

/-- Within memory a range check does nothing. -/
theorem guardRange_ok {s : State} {base n : Nat} (h : n = 0 ∨ base + n ≤ 0x1000) (go : Result) :
    guardRange s base n go = go := by
  simp [guardRange_eq, rangeError, h]

/-- Beyond memory a range check raises. -/
theorem guardRange_err {s : State} {base n : Nat} (h0 : n ≠ 0) (h : 0x1000 < base + n) (go : Result) :
    guardRange s base n go =
      .next (s.halt (.addressOutOfRange s.pc (if base ≤ 0xFFF then 0x1000 else base))) := by
  simp [guardRange_eq, rangeError, h0, show ¬ base + n ≤ 0x1000 by omega]

/-- What a guarded access can answer. -/
theorem guardRange_next {s t : State} {base n : Nat} {go : Result} (h : guardRange s base n go = .next t) :
    (∃ e, rangeError s base n = some e ∧ t = s.halt e) ∨ (rangeError s base n = none ∧ go = .next t) := by
  rw [guardRange_eq] at h
  split at h
  next e he => cases h; exact .inl ⟨e, he, rfl⟩
  next he => exact .inr ⟨he, h⟩

/-- No range error means every address lies at or below 0xFFF. -/
theorem rangeError_none {s : State} {base n : Nat} : rangeError s base n = none ↔ n = 0 ∨ base + n ≤ 0x1000 := by
  unfold rangeError; split <;> simp_all

/-- A range error is an `AddressOutOfRange` of the instruction at `pc`, above 0xFFF. -/
theorem rangeError_some {s : State} {base n : Nat} {e : ErrorRecord} (h : rangeError s base n = some e) :
    ∃ a, 0xFFF < a ∧ e = .addressOutOfRange s.pc a := by
  unfold rangeError at h
  split at h
  · cases h
  · cases h; exact ⟨_, by split <;> omega, rfl⟩

theorem halt_eq_haltedBy (s : State) (e : ErrorRecord) : s.halt e = s.haltedBy e := rfl

/-- The bytes an access reads, one by one. -/
theorem State.bytesAt_getElem? (s : State) (base n i : Nat) :
    (s.bytesAt base n)[i]? = if i < n then some (s.byteAt (base + i)) else none := by
  unfold State.bytesAt
  split <;> simp_all

@[simp] theorem State.bytesAt_length (s : State) (base n : Nat) : (s.bytesAt base n).length = n := by
  simp [State.bytesAt]

/-- A store within the address space keeps the canonical form. -/
theorem State.storeBytes_wf {s : State} {base : Nat} {bs : List Byte} (h : s.mem.Wf)
    (ha : base + bs.length ≤ 0x1000) : (s.storeBytes base bs).mem.Wf :=
  Memory.wf_writeBytes bs h ha

theorem mem_cells {base n a : Nat} : Elem.mem a ∈ cells base n ↔ base ≤ a ∧ a < base + n := by
  simp only [cells, List.mem_map, List.mem_range, Elem.mem.injEq]
  exact ⟨fun ⟨k, hk, h⟩ => by omega, fun h => ⟨a - base, by omega, by omega⟩⟩

theorem mem_regsTo {x r : RegIdx} : Elem.reg r ∈ regsTo x ↔ r ≤ x := by
  simp [regsTo]

/-- A store leaves every byte outside its cells as it was (R42). -/
theorem State.byteAt_storeBytes_other {s : State} {base : Nat} {bs : List Byte} {a : Nat}
    (h : Elem.mem a ∉ cells base bs.length) : (s.storeBytes base bs).byteAt a = s.byteAt a := by
  rw [mem_cells] at h
  rw [State.byteAt_storeBytes]
  split
  · rw [List.getD_eq_default]; omega
  · rfl

/-- A store leaves in its cells the bytes stored (R42). -/
theorem State.byteAt_storeBytes_at {s : State} {base : Nat} {bs : List Byte} {i : Nat} (h : i < bs.length) :
    (s.storeBytes base bs).byteAt (base + i) = bs[i] := by
  simp [State.byteAt_storeBytes, h]

/-- Popping after a push gives what was pushed (R17). -/
@[simp] theorem State.top_push (s : State) (a : Word) : (s.push a).top = some a := by
  simp [State.top, State.push]

theorem State.dropTop_push (s : State) (a : Word) : (s.push a).dropTop = s := by
  simp [State.dropTop, State.push]

/-- The top of a stack is absent only when the stack is empty (R17). -/
theorem State.top_eq_none {s : State} : s.top = none ↔ s.stack = [] := by
  simp [State.top]

theorem State.stack_of_top {s : State} {a : Word} (h : s.top = some a) : s.stack = s.stack.dropLast ++ [a] := by
  have hne : s.stack ≠ [] := by intro h0; simp [State.top, h0] at h
  have := List.dropLast_append_getLast hne
  rw [State.top, List.getLast?_eq_getLast_of_ne_nil hne] at h
  rw [Option.some.inj h] at this
  exact this.symm

/-- `I` after zero-extending a 12-bit address (R63). -/
@[simp] theorem zext16_toNat (nnn : Addr) : (zext16 nnn).toNat = nnn.toNat := by
  have := nnn.isLt
  simp [zext16]; omega

@[simp] theorem lowNibble_val (v : Byte) : (lowNibble v).val = v.toNat % 16 := rfl

/-- The font address is 5 * digit (R106). -/
@[simp] theorem fontAddr_toNat (d : Fin 16) : (fontAddr d).toNat = 5 * d.val := by
  have := d.isLt
  simp [fontAddr]; omega

@[simp] theorem bcdDigits_length (v : Byte) : (bcdDigits v).length = 3 := rfl

/-- A flag is written as 0 or 1 (R12). -/
theorem flagByte_eq (b : Bool) : flagByte b = 0 ∨ flagByte b = 1 := by cases b <;> simp [flagByte]

@[simp] theorem flagByte_toNat (b : Bool) : (flagByte b).toNat = if b = true then 1 else 0 := by cases b <;> rfl

end Sys2Proof.Machine
end

