-- ==== Sys2Proof/Laws/Blitter.lean ====
section
/-! SUPPORT. What the blit does to one pixel, said once (spec/43_display_blitter.md R134 to R136). -/

namespace Sys2Proof.Machine

/-- Toggling changes one pixel. -/
theorem DisplayBuffer.pixel_toggle (fb : DisplayBuffer) (x x' : Fin 64) (y y' : Fin 32) :
    (fb.toggle x y).pixel x' y' = if x' = x ∧ y' = y then !fb.pixel x y else fb.pixel x' y' := by
  simp only [DisplayBuffer.toggle, DisplayBuffer.pixel, Fin.getElem_fin, Vector.getElem_set, Fin.ext_iff]
  split
  · next h => simp only [Vector.getElem_set, ← h, and_true]; grind
  · grind

@[simp] theorem DisplayBuffer.pixel_allOff (x : Fin 64) (y : Fin 32) : DisplayBuffer.allOff.pixel x y = false := by
  simp [DisplayBuffer.allOff, DisplayBuffer.pixel]

/-- Two display buffers with the same pixels are equal. -/
theorem DisplayBuffer.ext_pixel {a b : DisplayBuffer} (h : ∀ x y, a.pixel x y = b.pixel x y) : a = b := by
  apply Vector.ext; intro j hj
  apply Vector.ext; intro i hi
  exact h ⟨i, hi⟩ ⟨j, hj⟩

/-- Toggling distinct pixels flips exactly those. -/
theorem blitPixels_pixel (ps : List Pixel) (fb : DisplayBuffer) (hit : Bool) (hnd : ps.Nodup) (x : Fin 64)
    (y : Fin 32) : (blitPixels fb hit ps).1.pixel x y = (fb.pixel x y ^^ decide ((x, y) ∈ ps)) := by
  induction ps generalizing fb hit with
  | nil => simp [blitPixels]
  | cons p ps ih =>
    obtain ⟨px, py⟩ := p
    rw [List.nodup_cons] at hnd
    rw [blitPixels, ih _ _ hnd.2, DisplayBuffer.pixel_toggle]
    by_cases h : x = px ∧ y = py
    · obtain ⟨rfl, rfl⟩ := h
      simp [hnd.1]
    · have : ¬ (x, y) = (px, py) := by simpa using h
      simp [h, this]

/-- The collision flag of distinct pixels: one of them was on before the blit (R135, R136). -/
theorem blitPixels_hit (ps : List Pixel) (fb : DisplayBuffer) (hit : Bool) (hnd : ps.Nodup) :
    (blitPixels fb hit ps).2 = (hit || ps.any fun p => fb.pixel p.1 p.2) := by
  induction ps generalizing fb hit with
  | nil => simp [blitPixels]
  | cons p ps ih =>
    obtain ⟨px, py⟩ := p
    rw [List.nodup_cons] at hnd
    rw [blitPixels, ih _ _ hnd.2, List.any_cons, ← Bool.or_assoc]
    have hsame : ∀ q ∈ ps, (fb.toggle px py).pixel q.1 q.2 = fb.pixel q.1 q.2 := fun q hq => by
      rw [DisplayBuffer.pixel_toggle, if_neg]
      rintro ⟨h1, h2⟩
      exact hnd.1 (by rwa [show (px, py) = q from Prod.ext h1.symm h2.symm])
    congr 1
    rw [Bool.eq_iff_iff, List.any_eq_true, List.any_eq_true]
    exact exists_congr fun q => and_congr_right fun hq => by rw [hsame q hq]

/-- Which pixels a sprite row toggles. -/
theorem mem_rowPixels {x0 y0 r : Nat} {row : Byte} {p : Pixel} :
    p ∈ rowPixels x0 y0 r row ↔ ∃ c < 8, row.getLsbD (7 - c) = true ∧ p = spritePixel x0 y0 r c := by
  simp only [rowPixels, List.mem_map, List.mem_filter, List.mem_range, and_assoc, eq_comm]

/-- Which pixels a sprite toggles: bit 7 - c of row k lands at column x0 + c, row y0 + k, both wrapped. -/
theorem mem_spritePixels {x0 y0 r : Nat} {rows : List Byte} {p : Pixel} :
    p ∈ spritePixels x0 y0 r rows ↔
      ∃ k row, rows[k]? = some row ∧ ∃ c < 8, row.getLsbD (7 - c) = true ∧ p = spritePixel x0 y0 (r + k) c := by
  induction rows generalizing r with
  | nil => simp [spritePixels]
  | cons row rows ih =>
    rw [spritePixels, List.mem_append, mem_rowPixels, ih]
    constructor
    · rintro (⟨c, hc⟩ | ⟨k, row', hk, c, hc⟩)
      · exact ⟨0, row, rfl, c, hc⟩
      · exact ⟨k + 1, row', hk, c, by rwa [show r + (k + 1) = r + 1 + k by omega]⟩
    · rintro ⟨k, row', hk, c, hc⟩
      cases k with
      | zero => cases hk; exact .inl ⟨c, hc⟩
      | succ k => exact .inr ⟨k, row', hk, c, by rwa [show r + 1 + k = r + (k + 1) by omega]⟩

end Sys2Proof.Machine
end

