-- ==== Sys2Proof/Laws/Step.lean ====
section
/-! SUPPORT. What a step can do, said once: one inversion lemma each for the step, the cycle, the fetch and the key-wait
cycle (spec/40_flow_control.md R80, R81; spec/44_timer_keypad_instr.md R147). -/

namespace Sys2Proof.Machine

/-- With nothing to do, nothing is taken off the lists. -/
theorem State.popEvent_idle {s : State} (h : s.nextEvent = .idle) : s.popEvent = s := by
  unfold State.nextEvent at h
  unfold State.popEvent
  split at h
  · cases h
  · cases h
  next hs =>
    split at h
    · cases h
    next hi => rw [hs, hi]

/-- A step is a cycle, a tick, a host call, or nothing. -/
theorem step_cases {s t : State} (h : step s = .next t) :
    (s.nextEvent = .cycle ∧ cycle s.popEvent = .next t) ∨ (s.nextEvent = .tick ∧ t = tick s.popEvent) ∨
      (∃ c, s.nextEvent = .host c ∧ t = s.popEvent.hostCall c) ∨ (s.nextEvent = .idle ∧ t = s) := by
  unfold step at h
  cases he : s.nextEvent with
  | cycle => rw [he] at h; exact .inl ⟨rfl, h⟩
  | tick => rw [he] at h; cases h; exact .inr (.inl ⟨rfl, rfl⟩)
  | host c => rw [he] at h; cases h; exact .inr (.inr (.inl ⟨c, rfl, rfl⟩))
  | idle => rw [he, State.popEvent_idle he] at h; cases h; exact .inr (.inr (.inr ⟨rfl, rfl⟩))

/-- A cycle is idle, a wait cycle or a fetch (R80). -/
theorem cycle_cases {s t : State} (h : cycle s = .next t) :
    (s.run ≠ .running ∧ t = s) ∨ (∃ x, s.run = .running ∧ s.wait = some x ∧ waitCycle x s = .next t) ∨
      (s.run = .running ∧ s.wait = none ∧ fetchExecute s = .next t) := by
  unfold cycle at h
  split at h
  next hr => cases h; exact .inl ⟨by simp [hr], rfl⟩
  next hr => cases h; exact .inl ⟨by simp [hr], rfl⟩
  next hr =>
    split at h
    next x hx => exact .inr (.inl ⟨x, hr, hx, h⟩)
    next hx => exact .inr (.inr ⟨hr, hx, h⟩)

/-- A fetch fails, meets an unknown word, or runs the decoded instruction (R81, R199). -/
theorem fetchExecute_cases {s t : State} (h : fetchExecute s = .next t) :
    (∃ e, rangeError s s.pc.toNat 2 = some e ∧ t = s.halt e) ∨
      (s.pc.toNat ≤ 0xFFE ∧ (∃ r, decode s.cfg.bnnnMode s.wordAtPc = .error r) ∧
        t = s.halt (.unknownOpcode s.pc s.wordAtPc)) ∨
      ∃ i, s.pc.toNat ≤ 0xFFE ∧ decode s.cfg.bnnnMode s.wordAtPc = .ok i ∧ exec i s = .next t := by
  rcases guardRange_next h with h | ⟨hr, h⟩
  · exact .inl h
  · have hpc : s.pc.toNat ≤ 0xFFE := by have := rangeError_none.1 hr; omega
    unfold execWord at h
    split at h
    next i hi => exact .inr (.inr ⟨i, hpc, hi, h⟩)
    next r hr => cases h; exact .inr (.inl ⟨hpc, ⟨r, hr⟩, rfl⟩)

/-- A wait cycle delivers the latched key or changes nothing (R147). -/
theorem waitCycle_cases {s t : State} {x : RegIdx} (h : waitCycle x s = .next t) :
    (∃ k : Key, s.edge = some k ∧ t = ((s.setReg x (BitVec.ofNat 8 k.val)).setWait none none).toNext) ∨
      (s.edge = none ∧ t = s) := by
  unfold waitCycle at h
  split at h
  next k hk => cases h; exact .inl ⟨k, hk, rfl⟩
  next hk => cases h; exact .inr ⟨hk, rfl⟩

/-- An instruction runs only where a decoder that knows it reads it. -/
theorem wellFormed_of_decode {m : BnnnMode} {w : Word} {i : Instr} (h : decode m w = .ok i) :
    decodeRow w = some i ∧ WellFormed m i = true := by
  unfold decode at h
  split at h
  next j hj =>
    split at h
    next hw => cases h; exact ⟨hj, hw⟩
    next => cases h
  next => cases h

/-- Re-creation is the reset state but for what R28 does not reset. -/
@[simp] theorem State.recreate_mem (s : State) (image : List Byte) :
    (s.recreate image).mem = Memory.load s.cfg.font image := rfl

@[simp] theorem State.recreate_cfg (s : State) (image : List Byte) : (s.recreate image).cfg = s.cfg := rfl

@[simp] theorem State.recreate_inbox (s : State) (image : List Byte) : (s.recreate image).inbox = s.inbox := rfl

/-- An accepted image is loaded (R171). -/
theorem State.load_ok {s : State} {bytes : List Byte} (h : bytes.length ≤ 3584) : s.load bytes = s.recreate bytes := by
  simp [State.load, loadError, progMax, Nat.not_lt.2 h]

/-- A longer image leaves the block Uninitialized, its timers at 0 (R156, R171, R196). -/
theorem State.load_error {s : State} {bytes : List Byte} (h : 3584 < bytes.length) :
    s.load bytes =
      { s with run := .uninitialized, err := some (.romTooLarge bytes.length), DT := 0, ST := 0 } := by
  simp [State.load, loadError, progMax, h]

end Sys2Proof.Machine
end

