-- ==== Sys2Proof/Laws/Clock.lean ====
section
/-! SUPPORT. The tick and the word placed for the next step, said once (spec/45_timers_clock.md R150;
spec/40_flow_control.md R81). -/

namespace Sys2Proof.Machine

/-- Counting down is subtraction of naturals (R21, R150). -/
@[simp] theorem countDown_toNat (t : Byte) : (countDown t).toNat = t.toNat - 1 := by
  unfold countDown
  split
  next h =>
    have h' : 0 < t.toNat := h
    have := t.isLt
    simp; omega
  next h =>
    have h' : ¬ 0 < t.toNat := h
    omega

/-- A placed word leaves the machine at a fetch (log 105). -/
theorem State.placeWord_atFetch (s : State) (w : Word) : (s.placeWord w).AtFetch := by
  refine ⟨?_, rfl, rfl⟩
  by_cases h : s.nextEvent = .cycle
  · have hs : (s.placeWord w).slots = s.slots := if_pos h
    have hi : (s.placeWord w).inbox = s.inbox := rfl
    unfold State.nextEvent at h ⊢
    rwa [hs, hi]
  · have hs : (s.placeWord w).slots = .cycle :: s.slots := if_neg h
    unfold State.nextEvent
    rw [hs]

/-- The word the next step fetches is the word placed (R43, R81). -/
theorem State.placeWord_fetch (s : State) (w : Word) (h : s.pc.toNat ≤ 0xFFE) :
    (s.placeWord w).byteAt s.pc.toNat ++ (s.placeWord w).byteAt (s.pc.toNat + 1) =
      (w.extractLsb' 8 8 ++ w.extractLsb' 0 8 : Word) := by
  have h' : s.pc.toNat + 1 < memSize := by simp only [memSize]; omega
  simp [State.placeWord, State.byteAt, h', Memory.read_writeBytes]

end Sys2Proof.Machine
end

