-- ==== Sys2Proof/Laws/Decode.lean ====
section
/-! SUPPORT. Nibbles of words (spec/30_encoding.md R61, R62): the small lemmas of `nibble`, `joinNibbles` and the
encoding formats, so that no proof about decoding unfolds a bit vector again. -/

namespace Sys2Proof

theorem getLsbD_joinNibbles (a b c d : Nibble) (i : Nat) :
    (joinNibbles a b c d).getLsbD i =
      if i < 4 then d.getLsbD i else if i < 8 then c.getLsbD (i - 4)
      else if i < 12 then b.getLsbD (i - 8) else a.getLsbD (i - 12) := by
  change BitVec.getLsbD (w := 4 + 4 + 4 + 4) (a ++ b ++ c ++ d) i = _
  simp only [BitVec.getLsbD_append]
  grind

theorem getLsbD_nibble (k : Nat) (w : Word) (i : Nat) :
    (nibble k w).getLsbD i = (decide (i < 4) && w.getLsbD (4 * k + i)) := by
  simp [nibble, BitVec.getLsbD_extractLsb']

/-- Splitting what was joined. -/
theorem nibble_joinNibbles (a b c d : Nibble) :
    nibble 3 (joinNibbles a b c d) = a ∧ nibble 2 (joinNibbles a b c d) = b ∧
      nibble 1 (joinNibbles a b c d) = c ∧ nibble 0 (joinNibbles a b c d) = d := by
  refine ⟨?_, ?_, ?_, ?_⟩ <;> apply BitVec.eq_of_getLsbD_eq <;> intro i hi <;>
    rw [getLsbD_nibble, getLsbD_joinNibbles] <;> interval_cases i <;> rfl

/-- Joining what was split: a word is its four nibbles. -/
theorem joinNibbles_nibble (w : Word) :
    joinNibbles (nibble 3 w) (nibble 2 w) (nibble 1 w) (nibble 0 w) = w := by
  apply BitVec.eq_of_getLsbD_eq; intro i hi
  simp only [getLsbD_joinNibbles, getLsbD_nibble]
  interval_cases i <;> rfl

/-- Format XK as four nibbles. -/
theorem encodeXK_nibbles (op : Nibble) (x : RegIdx) (kk : Byte) :
    encodeXK op x kk = joinNibbles op (Nibble.ofIdx x) (kk.extractLsb' 4 4) (kk.extractLsb' 0 4) := by
  apply BitVec.eq_of_getLsbD_eq; intro i hi
  change BitVec.getLsbD (w := 4 + 4 + 8) (op ++ Nibble.ofIdx x ++ kk) i = _
  simp only [getLsbD_joinNibbles, BitVec.getLsbD_append, BitVec.getLsbD_extractLsb']
  interval_cases i <;> simp

/-- Format A as four nibbles. -/
theorem encodeA_nibbles (op : Nibble) (nnn : Addr) :
    encodeA op nnn = joinNibbles op (nnn.extractLsb' 8 4) (nnn.extractLsb' 4 4) (nnn.extractLsb' 0 4) := by
  apply BitVec.eq_of_getLsbD_eq; intro i hi
  change BitVec.getLsbD (w := 4 + 12) (op ++ nnn) i = _
  simp only [getLsbD_joinNibbles, BitVec.getLsbD_append, BitVec.getLsbD_extractLsb']
  interval_cases i <;> simp

/-- The byte `kk` of its two nibbles. -/
theorem byte_of_nibbles (kk : Byte) : (kk.extractLsb' 4 4 ++ kk.extractLsb' 0 4 : Byte) = kk := by
  apply BitVec.eq_of_getLsbD_eq; intro i hi
  simp only [BitVec.getLsbD_append, BitVec.getLsbD_extractLsb']
  interval_cases i <;> simp

/-- The address `nnn` of its three nibbles. -/
theorem addr_of_nibbles (nnn : Addr) :
    (nnn.extractLsb' 8 4 ++ nnn.extractLsb' 4 4 ++ nnn.extractLsb' 0 4 : Addr) = nnn := by
  apply BitVec.eq_of_getLsbD_eq; intro i hi
  simp only [BitVec.getLsbD_append, BitVec.getLsbD_extractLsb']
  interval_cases i <;> simp

@[simp] theorem Nibble.idx_ofIdx (x : Fin 16) : (Nibble.ofIdx x).idx = x := rfl

@[simp] theorem Nibble.ofIdx_idx (b : Nibble) : Nibble.ofIdx b.idx = b := rfl

/-- The decoder on four nibbles. -/
theorem decodeRow_joinNibbles (a b c d : Nibble) : decodeRow (joinNibbles a b c d) = decodeNibbles a b c d := by
  obtain ⟨h3, h2, h1, h0⟩ := nibble_joinNibbles a b c d
  rw [decodeRow, h3, h2, h1, h0]

/-- A mask acts nibble by nibble. -/
theorem joinNibbles_and (a b c d a' b' c' d' : Nibble) :
    joinNibbles a b c d &&& joinNibbles a' b' c' d' = joinNibbles (a &&& a') (b &&& b') (c &&& c') (d &&& d') := by
  apply BitVec.eq_of_getLsbD_eq; intro i hi
  simp only [BitVec.getLsbD_and, getLsbD_joinNibbles]
  grind

/-- A word's two bytes, joined big-endian (R43). -/
theorem word_of_bytes (w : Word) : (w.extractLsb' 8 8 ++ w.extractLsb' 0 8 : Word) = w := by
  apply BitVec.eq_of_getLsbD_eq; intro i hi
  simp only [BitVec.getLsbD_append, BitVec.getLsbD_extractLsb']
  interval_cases i <;> simp

end Sys2Proof
end

