-- ==== Sys2Proof/Laws/PerInstr.lean ====
section
/-! SUPPORT. Per-instruction facts about the syntax, one lemma per constructor of Instr. Family `Rows`: the encoder gives
an instruction a word of its own row of spec/30_encoding.md R64 (of R67 for the optional row), in all fixed bits. -/

namespace Sys2Proof.Laws.Rows

/-- The word of `i` matches a row of the opcode map. -/
def Statement (i : Instr) : Prop := ∃ row ∈ rowsOf .jumpV0, matchesRow (encode i) row = true

theorem nibble_and_F (a : Nibble) : a &&& 0xF#4 = a := by revert a; decide

/-- A row holds of a word when its mask, taken nibble by nibble, leaves the row's match. -/
theorem matches_of_mask {a b c d : Nibble} {pattern mask : Word} (a' b' c' d' : Nibble)
    (hm : mask = joinNibbles a' b' c' d')
    (h : joinNibbles (a &&& a') (b &&& b') (c &&& c') (d &&& d') = pattern) :
    matchesRow (joinNibbles a b c d) (pattern, mask) = true := by
  simp [matchesRow, hm, joinNibbles_and, h]

/-- A word of format A matches by its first nibble. -/
theorem matches_A (op : Nibble) (nnn : Addr) : matchesRow (encodeA op nnn) (joinNibbles op 0 0 0, 0xF000) = true := by
  rw [encodeA_nibbles]
  exact matches_of_mask 0xF 0x0 0x0 0x0 rfl (by simp [nibble_and_F])

/-- A word of format XK matches by its first nibble. -/
theorem matches_XK (op : Nibble) (x : RegIdx) (kk : Byte) :
    matchesRow (encodeXK op x kk) (joinNibbles op 0 0 0, 0xF000) = true := by
  rw [encodeXK_nibbles]
  exact matches_of_mask 0xF 0x0 0x0 0x0 rfl (by simp [nibble_and_F])

/-- A word of format X matches by its first nibble and its low byte. -/
theorem matches_X (op : Nibble) (x : RegIdx) (kk : Byte) :
    matchesRow (encodeXK op x kk) (joinNibbles op 0 (kk.extractLsb' 4 4) (kk.extractLsb' 0 4), 0xF0FF) = true := by
  rw [encodeXK_nibbles]
  exact matches_of_mask 0xF 0x0 0xF 0xF rfl (by simp [nibble_and_F])

/-- A word of format XY matches by its first and last nibbles. -/
theorem matches_XY (op last : Nibble) (x y : RegIdx) :
    matchesRow (encodeXY op x y last) (joinNibbles op 0 0 last, 0xF00F) = true := by
  rw [encodeXY]
  exact matches_of_mask 0xF 0x0 0x0 0xF rfl (by simp [nibble_and_F])

/-- A word of format XYN matches by its first nibble. -/
theorem matches_XYN (op last : Nibble) (x y : RegIdx) :
    matchesRow (encodeXY op x y last) (joinNibbles op 0 0 0, 0xF000) = true := by
  rw [encodeXY]
  exact matches_of_mask 0xF 0x0 0x0 0x0 rfl (by simp [nibble_and_F])

theorem cls : Statement .cls := ⟨(0x00E0#16, 0xFFFF), by decide, by decide⟩

theorem ret : Statement .ret := ⟨(0x00EE#16, 0xFFFF), by decide, by decide⟩

theorem jpAddr (nnn : Addr) : Statement (.jpAddr nnn) := ⟨_, by decide, matches_A 0x1 nnn⟩

theorem callAddr (nnn : Addr) : Statement (.callAddr nnn) := ⟨_, by decide, matches_A 0x2 nnn⟩

theorem seByte (x : RegIdx) (kk : Byte) : Statement (.seByte x kk) := ⟨_, by decide, matches_XK 0x3 x kk⟩

theorem sneByte (x : RegIdx) (kk : Byte) : Statement (.sneByte x kk) := ⟨_, by decide, matches_XK 0x4 x kk⟩

theorem seReg (x y : RegIdx) : Statement (.seReg x y) := ⟨_, by decide, matches_XY 0x5 0x0 x y⟩

theorem ldByte (x : RegIdx) (kk : Byte) : Statement (.ldByte x kk) := ⟨_, by decide, matches_XK 0x6 x kk⟩

theorem addByte (x : RegIdx) (kk : Byte) : Statement (.addByte x kk) := ⟨_, by decide, matches_XK 0x7 x kk⟩

theorem ldReg (x y : RegIdx) : Statement (.ldReg x y) := ⟨_, by decide, matches_XY 0x8 0x0 x y⟩

theorem orReg (x y : RegIdx) : Statement (.orReg x y) := ⟨_, by decide, matches_XY 0x8 0x1 x y⟩

theorem andReg (x y : RegIdx) : Statement (.andReg x y) := ⟨_, by decide, matches_XY 0x8 0x2 x y⟩

theorem xorReg (x y : RegIdx) : Statement (.xorReg x y) := ⟨_, by decide, matches_XY 0x8 0x3 x y⟩

theorem addReg (x y : RegIdx) : Statement (.addReg x y) := ⟨_, by decide, matches_XY 0x8 0x4 x y⟩

theorem sub (x y : RegIdx) : Statement (.sub x y) := ⟨_, by decide, matches_XY 0x8 0x5 x y⟩

theorem shr (x y : RegIdx) : Statement (.shr x y) := ⟨_, by decide, matches_XY 0x8 0x6 x y⟩

theorem subn (x y : RegIdx) : Statement (.subn x y) := ⟨_, by decide, matches_XY 0x8 0x7 x y⟩

theorem shl (x y : RegIdx) : Statement (.shl x y) := ⟨_, by decide, matches_XY 0x8 0xE x y⟩

theorem sneReg (x y : RegIdx) : Statement (.sneReg x y) := ⟨_, by decide, matches_XY 0x9 0x0 x y⟩

theorem ldIAddr (nnn : Addr) : Statement (.ldIAddr nnn) := ⟨_, by decide, matches_A 0xA nnn⟩

theorem rnd (x : RegIdx) (kk : Byte) : Statement (.rnd x kk) := ⟨_, by decide, matches_XK 0xC x kk⟩

theorem drw (x y : RegIdx) (n : Fin 16) : Statement (.drw x y n) := ⟨_, by decide, matches_XYN 0xD (Nibble.ofIdx n) x y⟩

theorem skp (x : RegIdx) : Statement (.skp x) := ⟨_, by decide, matches_X 0xE x 0x9E⟩

theorem sknp (x : RegIdx) : Statement (.sknp x) := ⟨_, by decide, matches_X 0xE x 0xA1⟩

theorem ldVxDT (x : RegIdx) : Statement (.ldVxDT x) := ⟨_, by decide, matches_X 0xF x 0x07⟩

theorem ldVxK (x : RegIdx) : Statement (.ldVxK x) := ⟨_, by decide, matches_X 0xF x 0x0A⟩

theorem ldDTVx (x : RegIdx) : Statement (.ldDTVx x) := ⟨_, by decide, matches_X 0xF x 0x15⟩

theorem ldSTVx (x : RegIdx) : Statement (.ldSTVx x) := ⟨_, by decide, matches_X 0xF x 0x18⟩

theorem addIVx (x : RegIdx) : Statement (.addIVx x) := ⟨_, by decide, matches_X 0xF x 0x1E⟩

theorem ldFVx (x : RegIdx) : Statement (.ldFVx x) := ⟨_, by decide, matches_X 0xF x 0x29⟩

theorem ldBVx (x : RegIdx) : Statement (.ldBVx x) := ⟨_, by decide, matches_X 0xF x 0x33⟩

theorem ldMemVx (x : RegIdx) : Statement (.ldMemVx x) := ⟨_, by decide, matches_X 0xF x 0x55⟩

theorem ldVxMem (x : RegIdx) : Statement (.ldVxMem x) := ⟨_, by decide, matches_X 0xF x 0x65⟩

theorem jpV0 (nnn : Addr) : Statement (.jpV0 nnn) := ⟨_, by decide, matches_A 0xB nnn⟩

end Sys2Proof.Laws.Rows
end

