-- ==== Sys2Proof/Tests/Slice0.lean ====
section
/-! SUPPORT. Tests of the model against spec/95_test_vectors.md, one step each (its S and T ids are in the comments), and
for every statement with hypotheses a named witness that meets them, at the boundary values of its clauses. -/

namespace Sys2Proof.Machine

/-! ## A small machine for tests -/

/-- The reset state with one cycle owed, `pc`, and one word at `pc`, written by hand as two bytes. -/
def testAt (pc : Word) (hi lo : Byte) : State :=
  { State.reset with pc := pc, mem := Memory.writeBytes [] pc.toNat [hi, lo], slots := [.cycle] }

/-- The reset state with one word at 0x200. -/
def testWord (hi lo : Byte) : State := testAt 0x200 hi lo

/-- Bytes placed in memory. -/
def State.testBytes (s : State) (a : Nat) (bs : List Byte) : State := { s with mem := s.mem.writeBytes a bs }

/-- A register given a value. -/
def State.testReg (s : State) (x : RegIdx) (b : Byte) : State := { s with V := s.V.set x b }

/-- V0..VF = 01, 02, .., 10. -/
def State.testRegs (s : State) : State := { s with V := Vector.ofFn fun i => BitVec.ofNat 8 (i.val + 1) }

/-- What one observes of the next state of a step; nothing on a stop. -/
def testStep {α : Type} (s : State) (f : State → α) : Option α :=
  match step s with
  | .next t => some (f t)
  | .fault _ => none
  | .refused _ => none

/-- The error record after a step, when it halted the engine and left `pc`. -/
def State.testError (s t : State) : Option ErrorRecord :=
  if t.run = .halted ∧ t.pc = s.pc ∧ t.V = s.V ∧ t.stack = s.stack ∧ t.mem = s.mem then t.err else none

/-- Sixteen return addresses. -/
def testFull : List Word := List.replicate 16 0x0202

/-! ## WellFormed and Decode -/

theorem test_wellFormed_refuses_jpV0 : WellFormed .illegal (.jpV0 0x300) = false := by decide

theorem test_wellFormed_takes_jpV0 : WellFormed .jumpV0 (.jpV0 0x300) = true := by decide

-- 30_encoding.md R64 (match, mask): the words below are written out from its patterns.
theorem test_decode_flow :
    decode .illegal 0x00EE = .ok .ret ∧ decode .illegal 0x1ABC = .ok (.jpAddr 0xABC) ∧
      decode .illegal 0x2FED = .ok (.callAddr 0xFED) ∧ decode .illegal 0x3A5C = .ok (.seByte 0xA 0x5C) ∧
      decode .illegal 0x4B6D = .ok (.sneByte 0xB 0x6D) ∧ decode .illegal 0x51E0 = .ok (.seReg 0x1 0xE) ∧
      decode .illegal 0x92D0 = .ok (.sneReg 0x2 0xD) ∧ decode .jumpV0 0xB123 = .ok (.jpV0 0x123) := by decide

theorem test_decode_load :
    decode .illegal 0x6F07 = .ok (.ldByte 0xF 0x07) ∧ decode .illegal 0x8AF0 = .ok (.ldReg 0xA 0xF) ∧
      decode .illegal 0xAFFE = .ok (.ldIAddr 0xFFE) ∧ decode .illegal 0xF329 = .ok (.ldFVx 0x3) ∧
      decode .illegal 0xF433 = .ok (.ldBVx 0x4) ∧ decode .illegal 0xF555 = .ok (.ldMemVx 0x5) ∧
      decode .illegal 0xF665 = .ok (.ldVxMem 0x6) := by decide

theorem test_decode_alu :
    decode .illegal 0x7C9D = .ok (.addByte 0xC 0x9D) ∧ decode .illegal 0x8121 = .ok (.orReg 1 2) ∧
      decode .illegal 0x8342 = .ok (.andReg 3 4) ∧ decode .illegal 0x8563 = .ok (.xorReg 5 6) ∧
      decode .illegal 0x8784 = .ok (.addReg 7 8) ∧ decode .illegal 0x89A5 = .ok (.sub 9 0xA) ∧
      decode .illegal 0x8BC6 = .ok (.shr 0xB 0xC) ∧ decode .illegal 0x8DE7 = .ok (.subn 0xD 0xE) ∧
      decode .illegal 0x8F1E = .ok (.shl 0xF 1) ∧ decode .illegal 0xF71E = .ok (.addIVx 7) ∧
      decode .illegal 0xC93F = .ok (.rnd 9 0x3F) := by decide

theorem test_decode_display_timer_key :
    decode .illegal 0x00E0 = .ok .cls ∧ decode .illegal 0xD12F = .ok (.drw 1 2 15) ∧
      decode .illegal 0xF107 = .ok (.ldVxDT 1) ∧ decode .illegal 0xF20A = .ok (.ldVxK 2) ∧
      decode .illegal 0xF315 = .ok (.ldDTVx 3) ∧ decode .illegal 0xF418 = .ok (.ldSTVx 4) ∧
      decode .illegal 0xE59E = .ok (.skp 5) ∧ decode .illegal 0xE6A1 = .ok (.sknp 6) := by decide

-- 95_test_vectors.md 2.6: the illegal words of that list.
theorem test_decode_unknown_low :
    decode .illegal 0x0000 = .error (.unknownOpcode 0x0000) ∧
      decode .illegal 0x00E1 = .error (.unknownOpcode 0x00E1) ∧
      decode .illegal 0x00FF = .error (.unknownOpcode 0x00FF) ∧
      decode .illegal 0x0123 = .error (.unknownOpcode 0x0123) ∧
      decode .illegal 0x5121 = .error (.unknownOpcode 0x5121) := by decide

theorem test_decode_unknown_high :
    decode .illegal 0x8128 = .error (.unknownOpcode 0x8128) ∧
      decode .illegal 0x812F = .error (.unknownOpcode 0x812F) ∧
      decode .illegal 0x9121 = .error (.unknownOpcode 0x9121) ∧
      decode .illegal 0xB300 = .error (.unknownOpcode 0xB300) ∧
      decode .illegal 0xE19F = .error (.unknownOpcode 0xE19F) ∧
      decode .illegal 0xE1A0 = .error (.unknownOpcode 0xE1A0) ∧
      decode .illegal 0xF100 = .error (.unknownOpcode 0xF100) ∧
      decode .illegal 0xF166 = .error (.unknownOpcode 0xF166) ∧
      decode .illegal 0xFFFF = .error (.unknownOpcode 0xFFFF) := by decide

-- R43, R60: two bytes, big-endian, the bytes after them left alone; one byte is no instruction.
theorem test_decodeBytes :
    decodeBytes .illegal [0x61, 0x2A, 0xFF] = .ok (.ldByte 1 0x2A, [0xFF]) ∧
      decodeBytes .illegal [0x61] = .error .truncated := by decide

/-! ## Control flow (95_test_vectors.md 2.1) -/

-- T2
theorem test_jp_self : testStep (testAt 0xFFE 0x1F 0xFE) (·.pc) = some 0xFFE := by decide

-- T3
theorem test_call : testStep (testAt 0x204 0x22 0x0A) (fun t => (t.pc, t.stack)) = some (0x20A, [0x206]) := by decide

-- T6
theorem test_call_overflow :
    testStep { testWord 0x23 0x00 with stack := testFull } (State.testError { testWord 0x23 0x00 with stack := testFull }) =
      some (some (.stackOverflow 0x200)) := by decide

-- T4
theorem test_ret :
    testStep { testAt 0x20C 0x00 0xEE with stack := [0x206] } (fun t => (t.pc, t.stack)) = some (0x206, []) := by decide

-- T5
theorem test_ret_underflow :
    testStep (testWord 0x00 0xEE) (State.testError (testWord 0x00 0xEE)) = some (some (.stackUnderflow 0x200)) := by decide

-- T7, T8
theorem test_se_byte :
    testStep (testWord 0x31 0x00) (·.pc) = some 0x204 ∧
      testStep ((testWord 0x31 0x00).testReg 1 0x04) (·.pc) = some 0x202 := by decide

-- T9, T10
theorem test_sne_byte :
    testStep ((testWord 0x40 0x05).testReg 0 0x05) (·.pc) = some 0x202 ∧
      testStep ((testWord 0x40 0x06).testReg 0 0x05) (·.pc) = some 0x204 := by decide

-- T11, T12
theorem test_se_reg :
    testStep (((testWord 0x52 0x30).testReg 2 0x7F).testReg 3 0x7F) (·.pc) = some 0x204 ∧
      testStep (((testWord 0x52 0x30).testReg 2 0x01).testReg 3 0x02) (·.pc) = some 0x202 := by decide

-- T14, T15
theorem test_sne_reg :
    testStep (((testWord 0x92 0x30).testReg 2 0x01).testReg 3 0x02) (·.pc) = some 0x204 ∧
      testStep (testWord 0x92 0x20) (·.pc) = some 0x202 := by decide

-- T16: the skip at the top of memory, and the fetch after it.
theorem test_skip_past_memory :
    testStep (testAt 0xFFE 0x30 0x00) (·.pc) = some 0x1002 ∧
      testStep { State.reset with pc := 0x1002, slots := [.cycle] } (·.err) = some (some (.addressOutOfRange 0x1002 0x1002)) := by decide

-- T18
theorem test_fetch_last_byte :
    testStep { State.reset with pc := 0xFFF, slots := [.cycle] } (·.err) = some (some (.addressOutOfRange 0xFFF 0x1000)) := by decide

-- T19: an odd pc fetches the bytes at pc and pc + 1.
theorem test_odd_pc : testStep (testAt 0x203 0x61 0x2A) (fun t => (t.reg 1, t.pc)) = some (0x2A, 0x205) := by decide

-- 95_test_vectors.md 2.6: B300 with jump_v0 and V0 = 04, and with illegal.
theorem test_jpV0 :
    testStep { (testWord 0xB3 0x00).testReg 0 0x04 with cfg := { Config.atReset with bnnnMode := .jumpV0 } } (·.pc) =
        some 0x304 ∧
      testStep (testWord 0xB3 0x00) (·.err) = some (some (.unknownOpcode 0x200 0xB300)) := by decide

/-! ## Loads and moves (2.2) -/

-- T21, T23
theorem test_ld_byte :
    testStep (testWord 0x60 0xFF) (·.reg 0) = some 0xFF ∧ testStep (testWord 0x6F 0x07) (·.reg VF) = some 0x07 := by
  decide

-- T22
theorem test_ld_reg :
    testStep ((testWord 0x8A 0xF0).testReg VF 0x01) (fun t => (t.reg 0xA, t.reg VF)) = some (0x01, 0x01) := by decide

-- T24
theorem test_ld_i : testStep (testWord 0xAF 0xFF) (·.I) = some 0xFFF := by decide

-- T25
theorem test_block_load :
    testStep { (testWord 0xF2 0x65).testBytes 0x300 [0x02, 0x05, 0x05] with I := 0x300 }
      (fun t => (t.reg 0, t.reg 1, t.reg 2, t.I)) = some (0x02, 0x05, 0x05, 0x300) := by decide

-- T29
theorem test_block_load_beyond :
    testStep { testWord 0xFF 0x65 with I := 0xFF8 } (State.testError { testWord 0xFF 0x65 with I := 0xFF8 }) =
      some (some (.addressOutOfRange 0x200 0x1000)) := by decide

-- T27
theorem test_block_store :
    testStep { (testWord 0xFF 0x55).testRegs with I := 0xFF0 }
      (fun t => (t.byteAt 0xFEF, t.byteAt 0xFF0, t.byteAt 0xFFF, t.I, t.pc)) = some (0x00, 0x01, 0x10, 0xFF0, 0x202) := by
  decide

-- T28
theorem test_block_store_beyond :
    testStep { (testWord 0xFF 0x55).testRegs with I := 0xFF8 }
      (State.testError { (testWord 0xFF 0x55).testRegs with I := 0xFF8 }) =
      some (some (.addressOutOfRange 0x200 0x1000)) := by decide

-- T32 (0x7B = 123), S3
theorem test_bcd :
    testStep { (testWord 0xF0 0x33).testReg 0 0x7B with I := 0xFFD } (·.bytesAt 0xFFD 3) = some [1, 2, 3] ∧
      testStep { (testWord 0xF0 0x33).testReg 0 0xFF with I := 0x300 } (·.bytesAt 0x300 3) = some [2, 5, 5] := by decide

-- T33
theorem test_bcd_beyond :
    testStep { (testWord 0xF0 0x33).testReg 0 0x7B with I := 0xFFE }
      (State.testError { (testWord 0xF0 0x33).testReg 0 0x7B with I := 0xFFE }) =
      some (some (.addressOutOfRange 0x200 0x1000)) := by decide

-- S6, T34, T35
theorem test_ld_font :
    testStep ((testWord 0xF0 0x29).testReg 0 0x3A) (·.I) = some 0x032 ∧
      testStep ((testWord 0xF0 0x29).testReg 0 0x0F) (·.I) = some 0x04B := by decide

/-! ## Arithmetic, logic, shifts, random (2.3) -/

/-- A step of a word with V0 and V1 given: V0, V1 and VF after it. -/
def testAlu (lo v0 v1 : Byte) : Option (Byte × Byte × Byte) :=
  testStep (((testWord 0x80 lo).testReg 0 v0).testReg 1 v1) fun t => (t.reg 0, t.reg 1, t.reg VF)

-- T40, T43
theorem test_add : testAlu 0x14 0xC8 0x64 = some (0x2C, 0x64, 1) ∧ testAlu 0x14 0x80 0x7F = some (0xFF, 0x7F, 0) := by decide

-- T45, T47
theorem test_sub : testAlu 0x15 0x05 0x0A = some (0xFB, 0x0A, 0) ∧ testAlu 0x15 0x07 0x07 = some (0x00, 0x07, 1) := by decide

-- T51, T53
theorem test_subn : testAlu 0x17 0x0A 0x05 = some (0xFB, 0x05, 0) ∧ testAlu 0x17 0x01 0x00 = some (0xFF, 0x00, 0) := by decide

-- T54 to T56: VF untouched
theorem test_logic :
    testAlu 0x11 0xF0 0x0F = some (0xFF, 0x0F, 0) ∧ testAlu 0x12 0xF0 0x3C = some (0x30, 0x3C, 0) ∧
      testAlu 0x13 0xF0 0x3C = some (0xCC, 0x3C, 0) := by decide

-- T57, T60
theorem test_shr : testAlu 0x16 0x05 0xAA = some (0x02, 0xAA, 1) ∧ testAlu 0x16 0x80 0x00 = some (0x40, 0x00, 0) := by decide

-- T61, T63
theorem test_shl : testAlu 0x1E 0x81 0xAA = some (0x02, 0xAA, 1) ∧ testAlu 0x1E 0x40 0x00 = some (0x80, 0x00, 0) := by decide

-- T67, T71: VF as the destination and as a source
theorem test_add_vf :
    testStep (((testWord 0x8F 0x14).testReg VF 0xFF).testReg 1 0x02) (·.reg VF) = some 0x01 ∧
      testStep (((testWord 0x80 0xF4).testReg 0 0xFF).testReg VF 0x01) (fun t => (t.reg 0, t.reg VF)) =
        some (0x00, 0x01) := by decide

-- T68
theorem test_sub_vf :
    testStep (((testWord 0x8F 0x15).testReg VF 0x05).testReg 1 0x0A) (·.reg VF) = some 0xFB := by decide

-- T69, T70
theorem test_shift_vf :
    testStep ((testWord 0x8F 0x06).testReg VF 0x03) (·.reg VF) = some 0x01 ∧
      testStep ((testWord 0x8F 0x0E).testReg VF 0x81) (·.reg VF) = some 0x02 := by decide

-- T66, T72
theorem test_add_byte :
    testStep ((testWord 0x70 0x01).testReg 0 0xFF) (fun t => (t.reg 0, t.reg VF)) = some (0x00, 0x00) ∧
      testStep ((testWord 0x7F 0x01).testReg VF 0xFF) (·.reg VF) = some 0x00 := by decide

-- ADD I, Vx: VF = 07 before and after
theorem test_add_i :
    testStep { ((testWord 0xF2 0x1E).testReg 2 0xFF).testReg VF 0x07 with I := 0xF80 } (fun t => (t.I, t.reg VF)) =
        some (0x07F, 0x07) ∧
      testStep { (testWord 0xF2 0x1E).testReg 2 0x10 with I := 0x300 } (·.I) = some 0x310 := by decide

-- S9 and the counter of draws; the drawn byte is free, so only the mask 00 has a value
theorem test_rnd_zero (s : State) :
    exec (.rnd 3 0x00) s = .next (({ s with draws := s.draws + 1 }.setReg 3 0).toNext) := by
  simp [exec, execRnd, State.consumeByte]

/-! ## Display (2.4) -/

-- T80
theorem test_cls :
    testStep { (testWord 0x00 0xE0).testReg VF 0x05 with fb := DisplayBuffer.allOff.toggle 7 0 }
      (fun t => (t.fb.pixel 7 0, t.reg VF)) = some (false, 0x05) := by decide

-- T81: font digit A at (126, 62) wraps on both axes
theorem test_drw_wrap :
    testStep { ((testWord 0xD0 0x15).testReg 0 0x7E).testReg 1 0x3E with I := 0x032 }
      (fun t => ([(62, 30), (63, 30), (0, 30), (1, 30), (2, 30), (0, 31), (1, 31)].map fun p => t.fb.pixel p.1 p.2, t.reg VF)) =
      some ([true, true, true, true, false, false, true], 0) := by decide

theorem test_drw_wrap_rows :
    testStep { ((testWord 0xD0 0x15).testReg 0 0x7E).testReg 1 0x3E with I := 0x032 }
      (fun t => [(62, 0), (63, 0), (63, 1), (1, 2), (62, 3)].map fun p => t.fb.pixel p.1 p.2) =
      some [true, false, true, true, false] := by decide

-- T82: a collision; the 1 bits toggle
theorem test_drw_collision :
    testStep { (testWord 0xD0 0x11).testBytes 0x300 [0xFF] with I := 0x300, fb := DisplayBuffer.allOff.toggle 7 0 }
      (fun t => (t.fb.pixel 0 0, t.fb.pixel 6 0, t.fb.pixel 7 0, t.fb.pixel 8 0, t.reg VF)) =
      some (true, true, false, false, 1) := by decide

-- T87, T85
theorem test_drw_range :
    testStep { testWord 0xD0 0x05 with I := 0xFFC } (State.testError { testWord 0xD0 0x05 with I := 0xFFC }) =
        some (some (.addressOutOfRange 0x200 0x1000)) ∧
      testStep ((testWord 0xD0 0x10).testReg VF 0x09) (fun t => (t.reg VF, t.pc)) = some (0x00, 0x202) := by decide

/-! ## Timers and keys (2.5) -/

-- T91
theorem test_ld_vx_dt :
    testStep { testWord 0xF1 0x07 with DT := 0x02 } (fun t => (t.reg 1, t.DT)) = some (0x02, 0x02) := by decide

-- T90
theorem test_ld_dt : testStep ((testWord 0xF0 0x15).testReg 0 0x03) (fun t => (t.DT, t.ST)) = some (0x03, 0x00) := by decide

-- T92
theorem test_ld_st :
    testStep ((testWord 0xF0 0x18).testReg 0 0x1E) (fun t => (t.ST, t.DT, t.soundActive)) = some (0x1E, 0x00, true) := by
  decide

-- T98 (key 7 is the low nibble of 17), T96
theorem test_skp :
    testStep { (testWord 0xE2 0x9E).testReg 2 0x17 with keys := State.reset.keys.set 7 true } (·.pc) = some 0x204 ∧
      testStep ((testWord 0xE2 0x9E).testReg 2 0x07) (·.pc) = some 0x202 := by decide

-- T98, T97
theorem test_sknp :
    testStep { (testWord 0xE2 0xA1).testReg 2 0x17 with keys := State.reset.keys.set 7 true } (·.pc) = some 0x202 ∧
      testStep ((testWord 0xE2 0xA1).testReg 2 0x07) (·.pc) = some 0x204 := by decide

-- T99: a held key is not an edge
theorem test_ld_k :
    testStep { testWord 0xF2 0x0A with keys := State.reset.keys.set 3 true } (fun t => (t.wait, t.edge, t.pc)) =
      some (some 2, none, 0x200) := by decide

-- T101: the latched edge is delivered
theorem test_wait_delivers :
    testStep { testWord 0xF2 0x0A with wait := some 2, edge := some 9 } (fun t => (t.reg 2, t.wait, t.edge, t.pc)) =
      some (0x09, none, none, 0x202) := by decide

-- T93
theorem test_tick :
    testStep { State.reset with DT := 1, slots := [.tick, .cycle] } (fun t => (t.DT, t.ST, t.slots)) =
      some (0, 0, [.cycle]) := by decide

/-- The order and the accumulators one `advance` call gives. -/
def testClock (cpuHz units c t dt : Nat) : List Slot × Nat × Nat :=
  let s := State.advance
    { State.reset with
      cpuAcc := c
      tmrAcc := t
      cfg := { Config.atReset with cpuHz := cpuHz, units := units } } dt
  (s.slots, s.cpuAcc, s.tmrAcc)

-- T110, T111 (a tie: the tick first)
theorem test_advance_600 :
    testClock 600 1000 0 0 16 = (List.replicate 9 .cycle, 600, 960) ∧
      testClock 600 1000 600 960 17 = (.tick :: List.replicate 10 .cycle, 800, 980) := by decide

-- T117 (two ticks a cycle), T114 of its parameters (nothing owed)
theorem test_advance_30 :
    testClock 30 1000 0 0 100 =
        ([.tick, .tick, .cycle] ++ [.tick, .tick, .cycle] ++ [.tick, .tick, .cycle], 0, 0) ∧
      testClock 600 1000 0 0 0 = ([], 0, 0) := by decide

/-! ## Host interface -/

-- T100, T101: a repeat of a held key is no edge; the first press is
theorem test_set_key :
    testStep { State.reset with wait := some 2, keys := State.reset.keys.set 3 true, inbox := [.setKeyState 3 true] }
        (·.edge) = some none ∧
      testStep { State.reset with wait := some 2, inbox := [.setKeyState 9 true] } (fun t => (t.edge, t.keys[9])) =
        some (some 9, true) := by decide

-- T102
theorem test_reset_call :
    testStep { State.reset with wait := some 2, pc := 0x20A, DT := 5, inbox := [.reset] } (fun t => (t.wait, t.pc, t.DT)) =
      some (none, 0x200, 0) := by decide

-- R171, R180: the image at 0x200, zero after it, the font kept
theorem test_initialize :
    testStep { State.reset with run := .uninitialized, inbox := [.load [0x12, 0x34, 0x56]] }
      (fun t => (t.bytesAt 0x1FF 5, t.byteAt 0x032, t.run)) =
      some ([0x00, 0x12, 0x34, 0x56, 0x00], 0xF0, .running) := by decide +kernel

-- P6: zero-filled memory holds no instruction
theorem test_runs_off_the_end :
    testStep { State.reset with slots := [.cycle] } (fun t => (t.run, t.err)) =
      some (.halted, some (.unknownOpcode 0x200 0x0000)) := by decide

-- R181 (b): while the host calls nothing, nothing runs.
theorem test_silent_host : testStep State.reset (fun t => (t.run, t.pc, t.slots)) = some (.running, 0x200, []) := by decide

-- R154 at 600 cycles a second in ms: two ms owe one cycle; the call is the step.
theorem test_advance_call :
    testStep { State.reset with cfg := { Config.atReset with cpuHz := 600, units := 1000 }, inbox := [.advance 2] }
      (fun t => (t.slots, t.cpuAcc, t.tmrAcc, t.inbox)) = some ([.cycle], 200, 120, []) := by decide

-- R156: both timers are 0 on a block a failed initialize left Uninitialized.
theorem test_initialize_too_long (s : State) :
    (s.load (List.replicate 3585 (0x00#8))).DT = 0 ∧ (s.load (List.replicate 3585 (0x00#8))).ST = 0 := by
  have h : loadError (List.replicate 3585 (0x00#8)) = some (.romTooLarge 3585) := by
    simp only [loadError, progMax, List.length_replicate]; rfl
  unfold State.load
  rw [h]
  exact ⟨rfl, rfl⟩

-- The host's two entries: the table's words decode, and the placed word is the one that runs.
theorem test_table_word :
    decodeTableWord 16 0x8126 = some (.shr 1 2) ∧ decodeTableWord 16 0xB300 = some (.jpV0 0x300) ∧
      decodeTableWord 16 0x8128 = none := by decide

theorem test_placed_word :
    testStep (State.reset.withFetchWord 16 0x6AFF) (·.reg 0xA) = some 0xFF ∧
      testStep (State.reset.withFetchWord 16 0xB300) (·.pc) = some 0x300 := by decide

/-! ## Witnesses: states and operands that meet the hypotheses of each statement

Named after the statement. Where a statement has several clauses, each has one at a boundary of its range. -/

theorem witness_DecodeOfEncodeIsTheInstruction :
    WellFormed .illegal (.drw 0xF 0xF 15) = true ∧ WellFormed .jumpV0 (.jpV0 0xFFF) = true := by decide

theorem witness_EncodeOfDecodeIsTheWord :
    decode .illegal 0x8AB6 = .ok (.shr 0xA 0xB) ∧ decode .jumpV0 0xBFFF = .ok (.jpV0 0xFFF) := by decide

theorem witness_DecodeAcceptsExactlyTheRows :
    (∀ row ∈ rowsOf .illegal, matchesRow 0xB000 row = false) ∧ (∃ row ∈ rowsOf .jumpV0, matchesRow 0xB000 row = true) :=
  ⟨by simpa using (by decide : (rowsOf .illegal).all (fun row => !matchesRow 0xB000 row) = true), (0xB000, 0xF000),
    by simp [rowsOf], by decide⟩

theorem witness_StepRunsTheDecodedInstruction :
    (testAt 0xFFE 0x12 0x04).AtFetch ∧ (testAt 0xFFE 0x12 0x04).pc.toNat ≤ 0xFFE ∧
      decode (testAt 0xFFE 0x12 0x04).cfg.bnnnMode
        ((testAt 0xFFE 0x12 0x04).byteAt 0xFFE ++ (testAt 0xFFE 0x12 0x04).byteAt (0xFFE + 1)) = .ok (.jpAddr 0x204) :=
  ⟨⟨rfl, rfl, rfl⟩, by decide, by decide⟩

theorem witness_UnknownWordHalts :
    (testAt 0xFFE 0x51 0x21).AtFetch ∧ (testAt 0xFFE 0x51 0x21).pc.toNat ≤ 0xFFE ∧
      ∀ row ∈ rowsOf (testAt 0xFFE 0x51 0x21).cfg.bnnnMode,
        matchesRow ((testAt 0xFFE 0x51 0x21).byteAt 0xFFE ++ (testAt 0xFFE 0x51 0x21).byteAt (0xFFE + 1)) row = false :=
  ⟨⟨rfl, rfl, rfl⟩, by decide, by
    rw [show ((testAt 0xFFE 0x51 0x21).byteAt 0xFFE ++ (testAt 0xFFE 0x51 0x21).byteAt (0xFFE + 1) : Word) = 0x5121 by decide]
    change ∀ row ∈ rowsOf .illegal, _
    simpa using (by decide : (rowsOf .illegal).all (fun row => !matchesRow 0x5121 row) = true)⟩

theorem witness_FetchBeyondMemoryHalts :
    State.AtFetch { State.reset with pc := 0xFFF, slots := [.cycle] } ∧ 0xFFE < (State.pc { State.reset with pc := 0xFFF }).toNat :=
  ⟨⟨rfl, rfl, rfl⟩, by decide⟩

theorem witness_FetchBeyondMemoryHalts_above :
    State.AtFetch { State.reset with pc := 0x1002, slots := [.cycle] } ∧ 0xFFE < (State.pc { State.reset with pc := 0x1002 }).toNat :=
  ⟨⟨rfl, rfl, rfl⟩, by decide⟩

theorem witness_IdleCycleChangesNothing :
    State.nextEvent { State.reset with run := .halted, slots := [.cycle] } = .cycle ∧
      State.nextEvent { State.reset with run := .uninitialized, slots := [.cycle] } = .cycle := by decide

/-- An engine waiting for a key in V3, a cycle owed, with what is latched. -/
def testWaiting (e : Option Key) : State := { State.reset with wait := some 3, edge := e, slots := [.cycle] }

theorem witness_KeyWaitCycleDeliversTheEdge :
    (testWaiting none).nextEvent = .cycle ∧ (testWaiting none).run = .running ∧ (testWaiting none).wait = some 3 ∧
      (testWaiting none).edge = none ∧ (testWaiting (some 15)).edge = some 15 := by decide

theorem witness_ErrorsArePrecise :
    errorOf .ret State.reset = some (.stackUnderflow 0x200) ∧
      errorOf (.callAddr 0x300) { State.reset with stack := testFull } = some (.stackOverflow 0x200) ∧
      errorOf (.drw 0 1 1) { State.reset with I := 0x1000 } = some (.addressOutOfRange 0x200 0x1000) ∧
      errorOf (.ldBVx 0) { State.reset with I := 0xFFE } = some (.addressOutOfRange 0x200 0x1000) ∧
      errorOf (.jpV0 0x300) State.reset = some (.unknownOpcode 0x200 0xB300) := by decide

theorem witness_InstructionsChangeOnlyTheirFootprint :
    errorOf .ret { State.reset with stack := [0x206] } = none ∧
      errorOf (.ldMemVx 15) { State.reset with I := 0xFF0 } = none ∧
      errorOf (.drw 0 1 15) { State.reset with I := 0xFF1 } = none ∧ errorOf .cls State.reset = none := by decide

theorem witness_FlagsAreZeroOrOne :
    ((0 : RegIdx) ≠ VF) ∧ errorOf (.addReg 0 VF) State.reset = none ∧ errorOf (.drw VF VF 0) State.reset = none ∧
      (∃ t, exec (.addReg 0 VF) State.reset = .next t) ∧ ∃ t, exec (.drw VF VF 0) State.reset = .next t :=
  ⟨by decide, by decide, by decide, ⟨_, rfl⟩, ⟨_, rfl⟩⟩

theorem witness_CallPushesAndJumps :
    (State.stack { State.reset with stack := List.replicate 15 0x202 }).length < 16 := by decide

theorem witness_CallPushesAndJumps_full : 16 ≤ (State.stack { State.reset with stack := testFull }).length := by decide

theorem witness_ReturnPops :
    State.stack { State.reset with stack := testFull } = List.replicate 15 0x202 ++ [0x202] ∧ State.reset.stack = [] := by
  decide

theorem witness_ReturnAfterCallContinuesAfterIt :
    ∃ t u : State, State.reset.stack.length < 16 ∧ exec (.callAddr 0x300) State.reset = .next t ∧ u.stack = t.stack :=
  ⟨_, _, by decide, rfl, rfl⟩

theorem witness_JumpV0DependsOnTheMode :
    State.reset.cfg.bnnnMode = .illegal ∧
      (State.cfg { State.reset with cfg := { Config.atReset with bnnnMode := .jumpV0 } }).bnnnMode = .jumpV0 := by decide

theorem witness_BlockLoadReadsFromI :
    (State.I { State.reset with I := 0xFF0 }).toNat + (15 : RegIdx).val ≤ 0xFFF ∧
      0xFFF < (State.I { State.reset with I := 0xFF1 }).toNat + (15 : RegIdx).val := by decide

theorem witness_BlockStoreWritesAtI :
    (State.I { State.reset with I := 0xFFF }).toNat + (0 : RegIdx).val ≤ 0xFFF ∧
      0xFFF < (State.I { State.reset with I := 0xFFF }).toNat + (1 : RegIdx).val := by decide

theorem witness_BlockLoadReadsBackTheBlockStore :
    ∃ t u : State, (State.I { State.reset with I := 0x300 }).toNat + (2 : RegIdx).val ≤ 0xFFF ∧
      exec (.ldMemVx 2) { State.reset with I := 0x300 } = .next t ∧ u.mem = t.mem ∧ u.I = t.I :=
  ⟨_, _, by decide, rfl, rfl, rfl⟩

theorem witness_BcdStoresTheDigits :
    (State.I { State.reset with I := 0xFFD }).toNat + 2 ≤ 0xFFF ∧
      0xFFF < (State.I { State.reset with I := 0xFFE }).toNat + 2 := by decide

theorem witness_StoredBytesAreFetchedNext :
    ∃ t, 1 ≤ (1 : RegIdx).val ∧ (State.I { State.reset with I := 0x202 }).toNat = State.reset.pc.toNat + 2 ∧
      (State.I { State.reset with I := 0x202 }).toNat + (1 : RegIdx).val ≤ 0xFFF ∧
      exec (.ldMemVx 1) { State.reset with I := 0x202 } = .next t :=
  ⟨_, by decide, by decide, by decide, rfl⟩

/-- For the flag clauses of O29 to O31: a destination other than VF, the last one before it. -/
theorem witness_FlagClauses : (14 : RegIdx) ≠ VF := by decide

theorem witness_RandomMasksTheDrawnByte : (7 < 8 ∧ (0x7F#8).getLsbD 7 = false) ∧ (0x00#8) = 0 := by decide

theorem witness_DrawXorsTheSpriteWithWrap :
    ((0 : Fin 16).val = 0 ∨ (State.I { State.reset with I := 0xFFFF }).toNat + (0 : Fin 16).val ≤ 0x1000) ∧
      ((15 : Fin 16).val = 0 ∨ (State.I { State.reset with I := 0xFF1 }).toNat + (15 : Fin 16).val ≤ 0x1000) := by decide

theorem witness_DrawingTwiceRestores :
    ∃ t u : State, ((1 : Fin 16).val = 0 ∨ State.reset.I.toNat + (1 : Fin 16).val ≤ 0x1000) ∧
      exec (.drw 0 1 1) State.reset = .next t ∧ u.fb = t.fb ∧ u.I = State.reset.I ∧
      (∀ a, u.byteAt a = State.reset.byteAt a) ∧ (u.reg 0).toNat % 64 = (State.reset.reg 0).toNat % 64 ∧
      (u.reg 1).toNat % 32 = (State.reset.reg 1).toNat % 32 ∧ t.reg VF = 0 :=
  ⟨_, _, by decide, rfl, rfl, rfl, fun _ => rfl, by decide, by decide, by decide⟩

theorem witness_SpritePixelsAreDistinct : (List.replicate 15 (0xFF#8)).length ≤ 15 := by decide

theorem witness_TimerInstructionsMoveTheTimers :
    State.reset.run ≠ .uninitialized ∧ State.run { State.reset with run := .halted } ≠ .uninitialized := by decide

theorem witness_KeySkipsTestTheLevel :
    (15 : Key).val = ((State.reset.testReg 2 0xFF).reg 2).toNat % 16 := by decide

theorem witness_SoundTimerIsNotRead :
    (∀ x, Instr.ldDTVx 0 ≠ .ldSTVx x) ∧ ∃ t, exec (.ldDTVx 0) State.reset = .next t := ⟨by decide, _, rfl⟩

theorem witness_SoundLastsAsManyTicks : State.reset.run ≠ .uninitialized := by decide

theorem witness_AdvanceOwesExactly :
    State.run { State.reset with run := .halted } ≠ .uninitialized ∧
      State.run { State.reset with run := .uninitialized } = .uninitialized := by decide

/-- A clock of 600 cycles a second in milliseconds, as in T110. -/
def testTimed : State := { State.reset with cfg := { Config.atReset with cpuHz := 600, units := 1000 } }

theorem witness_OwedStepsComeInDueOrder_tick :
    testTimed.run ≠ .uninitialized ∧ testTimed.cfg.Ok ∧ testTimed.cpuAcc < testTimed.cfg.units ∧
      testTimed.tmrAcc < testTimed.cfg.units ∧
      (testTimed.advance 20).slots = List.replicate 9 .cycle ++ .tick :: List.replicate 3 .cycle ∧
      (List.replicate 3 Slot.cycle).count .cycle ≠ 0 := by decide

theorem witness_OwedStepsComeInDueOrder_cycle :
    (testTimed.advance 20).slots =
        List.replicate 8 .cycle ++ .cycle :: (.tick :: List.replicate 3 .cycle) ∧
      (Slot.tick :: List.replicate 3 .cycle).count .tick ≠ 0 := by decide

theorem witness_SlicingTimeDoesNotMatter :
    testTimed.run ≠ .uninitialized ∧ testTimed.cfg.Ok ∧ testTimed.cpuAcc < testTimed.cfg.units ∧
      testTimed.tmrAcc < testTimed.cfg.units := by decide

theorem witness_OwedTickRunsInEveryState :
    State.slots { State.reset with run := .halted, slots := [.tick, .cycle] } = .tick :: [.cycle] := by decide

theorem witness_InitializeLeavesTheResetState : (List.replicate 3584 (0x00#8)).length ≤ 3584 := by
  rw [List.length_replicate]

theorem witness_TooLongImageLeavesUninitialized_reads :
    State.run { State.reset with run := .uninitialized } = .uninitialized ∧
      State.run { State.reset with run := .halted } ≠ .uninitialized ∧ State.reset.run ≠ .uninitialized := by decide

theorem witness_TooLongImageLeavesUninitialized : 3584 < (List.replicate 3585 (0x00#8)).length := by
  rw [List.length_replicate]; omega

theorem witness_ResetReinitializes :
    State.reset.image.length ≤ 3584 ∧ State.reset.run ≠ .uninitialized ∧
      State.run { State.reset with run := .uninitialized } = .uninitialized := by decide

/-- A halted engine with a key event to come. -/
def testHalted : State :=
  { State.reset with run := .halted, err := some (.stackUnderflow 0x200), inbox := [.setKeyState 1 true] }

theorem witness_HaltedUntilTheHostResets :
    testHalted.run = .halted ∧ testHalted.nextEvent ≠ .host .reset ∧
      (∀ bytes, testHalted.nextEvent ≠ .host (.load bytes)) ∧ ∃ t, step testHalted = .next t :=
  ⟨by decide, by decide, (fun _ h => nomatch h), _, rfl⟩

theorem witness_SetKeyLatchesThenSets :
    (testWaiting none).run ≠ .uninitialized ∧ State.run { State.reset with run := .uninitialized } = .uninitialized := by
  decide

theorem witness_FirstEdgeWins : (testWaiting (some 9)).edge = some 9 := by decide

theorem witness_OwedStepsComeBeforeHostCalls :
    State.slots { testHalted with slots := [.cycle] } ≠ [] ∧
      (testHalted.slots = [] ∧ testHalted.inbox = .setKeyState 1 true :: []) ∧
      State.reset.slots = [] ∧ State.reset.inbox = [] := by decide

theorem witness_OnlyTheEngineChangesProgramState :
    testHalted.nextEvent ≠ .cycle ∧ testHalted.nextEvent ≠ .host .reset ∧
      (∀ bytes, testHalted.nextEvent ≠ .host (.load bytes)) ∧ ∃ t, step testHalted = .next t :=
  ⟨by decide, by decide, (fun _ h => nomatch h), _, rfl⟩

/-- Reset memory meets the canonical form. -/
theorem testMem_wf : Memory.Wf [] := ⟨List.Pairwise.nil, (fun _ h => nomatch h)⟩

theorem witness_StepKeepsTheInvariant :
    (testWaiting (some 9)).Inv ∧ ∃ t, step (testWaiting (some 9)) = .next t :=
  ⟨⟨testMem_wf, ⟨Nat.succ_pos _, Nat.succ_pos _⟩, by decide, by decide, by decide, (fun _ h => nomatch h), by decide,
    ⟨Nat.succ_pos _, Nat.succ_pos _⟩, rfl, (fun h => nomatch h), (fun _ => ⟨by decide, by decide⟩), (fun _ => by decide)⟩, _, rfl⟩

theorem witness_StepKeepsMemoryCanonical :
    State.reset.mem.Wf ∧ State.reset.image.length ≤ 3584 ∧ ∃ t, step State.reset = .next t :=
  ⟨testMem_wf, by decide, _, rfl⟩

end Sys2Proof.Machine
end

section
/-! PROOFS. Who moves next (spec/00_scope.md R6, spec/45_timers_clock.md R155, spec/46_host_interface.md R179): the step
in each of its four cases, and the frame of a CPU cycle, which always answers a next state and never writes what belongs
to the host and to the clock. -/

namespace Sys2Proof.Machine

/-! ## The step, one equation per event -/

theorem step_of_owed_cycle {s : State} {rest : List Slot} (h : s.slots = .cycle :: rest) :
    step s = cycle { s with slots := rest } := by
  simp only [step, State.nextEvent, State.popEvent, runEvent, h]

theorem step_of_owed_tick {s : State} {rest : List Slot} (h : s.slots = .tick :: rest) :
    step s = .next (tick { s with slots := rest }) := by
  simp only [step, State.nextEvent, State.popEvent, runEvent, h]

theorem step_of_host_call {s : State} {c : HostCall} {rest : List HostCall} (hs : s.slots = [])
    (hi : s.inbox = c :: rest) : step s = .next ({ s with inbox := rest }.hostCall c) := by
  simp only [step, State.nextEvent, State.popEvent, runEvent, hs, hi]

theorem step_of_silence {s : State} (hs : s.slots = []) (hi : s.inbox = []) : step s = .next s := by
  have hidle : s.nextEvent = .idle := by simp only [State.nextEvent, hs, hi]
  rw [step, hidle, State.popEvent_idle hidle, runEvent]

/-! ## What no CPU cycle writes -/

/-- The elements that the host's calls and the clock write and no CPU cycle does (R30). -/
structure HostSide where
  keys : Vector Bool 16
  image : List Byte
  cfg : Config
  cpuAcc : Nat
  tmrAcc : Nat
  slots : List Slot
  inbox : List HostCall

/-- The host's side of a state. -/
def State.hostSide (s : State) : HostSide := ⟨s.keys, s.image, s.cfg, s.cpuAcc, s.tmrAcc, s.slots, s.inbox⟩

theorem State.hostSide_eq_iff {s t : State} :
    t.hostSide = s.hostSide ↔ t.keys = s.keys ∧ t.image = s.image ∧ t.cfg = s.cfg ∧ t.cpuAcc = s.cpuAcc ∧
      t.tmrAcc = s.tmrAcc ∧ t.slots = s.slots ∧ t.inbox = s.inbox := by
  simp only [State.hostSide, HostSide.mk.injEq]

/-- The result `r` of something run in `s` is a next state, and it leaves the host's side of `s` alone. -/
def KeepsHostSide (s : State) (r : Result) : Prop := ∃ t, r = .next t ∧ t.hostSide = s.hostSide

theorem keepsHostSide_next {s t : State} (h : t.hostSide = s.hostSide) : KeepsHostSide s (.next t) := ⟨t, rfl, h⟩

theorem keepsHostSide_raise (s : State) (e : ErrorRecord) : KeepsHostSide s (raise s e) := keepsHostSide_next rfl

theorem keepsHostSide_guardRange {s : State} {go : Result} (base n : Nat) (h : KeepsHostSide s go) :
    KeepsHostSide s (guardRange s base n go) := by
  rw [guardRange_eq]
  split
  next e _ => exact keepsHostSide_raise s e
  next => exact h

theorem State.hostSide_draw_toNext (s : State) (x y : RegIdx) (n : Fin 16) :
    (s.draw x y n).toNext.hostSide = s.hostSide := by
  simp [State.hostSide_eq_iff]

theorem keepsHostSide_execRet (s : State) : KeepsHostSide s (execRet s) := by
  unfold execRet
  split
  · exact keepsHostSide_raise _ _
  · exact keepsHostSide_next rfl

theorem keepsHostSide_execCallAddr (nnn : Addr) (s : State) : KeepsHostSide s (execCallAddr nnn s) := by
  unfold execCallAddr
  split
  · exact keepsHostSide_raise _ _
  · exact keepsHostSide_next rfl

theorem keepsHostSide_execJpV0 (nnn : Addr) (s : State) : KeepsHostSide s (execJpV0 nnn s) := by
  unfold execJpV0
  split
  · exact keepsHostSide_next rfl
  · exact keepsHostSide_raise _ _

/-- Every instruction answers a next state and leaves the host's side alone: some fail or go on, some do so by a range
check, and the others always end in one update of the engine's own elements. -/
theorem keepsHostSide_exec (i : Instr) (s : State) : KeepsHostSide s (exec i s) := by
  cases i with
  | ret => exact keepsHostSide_execRet s
  | callAddr nnn => exact keepsHostSide_execCallAddr nnn s
  | jpV0 nnn => exact keepsHostSide_execJpV0 nnn s
  | drw x y n => exact keepsHostSide_guardRange _ _ (keepsHostSide_next (s.hostSide_draw_toNext x y n))
  | ldBVx | ldMemVx | ldVxMem => exact keepsHostSide_guardRange _ _ (keepsHostSide_next rfl)
  | _ => exact keepsHostSide_next rfl

theorem keepsHostSide_fetchExecute (s : State) : KeepsHostSide s (fetchExecute s) := by
  refine keepsHostSide_guardRange _ _ ?_
  unfold execWord
  split
  next i _ => exact keepsHostSide_exec i s
  next => exact keepsHostSide_raise _ _

theorem keepsHostSide_waitCycle (x : RegIdx) (s : State) : KeepsHostSide s (waitCycle x s) := by
  unfold waitCycle
  split
  · exact keepsHostSide_next rfl
  · exact keepsHostSide_next rfl

/-- A CPU cycle, whatever it does (R80), answers a next state and leaves the host's side alone. -/
theorem keepsHostSide_cycle (s : State) : KeepsHostSide s (cycle s) := by
  unfold cycle
  split
  · exact keepsHostSide_next rfl
  · exact keepsHostSide_next rfl
  · split
    next x _ => exact keepsHostSide_waitCycle x s
    next => exact keepsHostSide_fetchExecute s

/-- A timer tick leaves the host's side alone (R150). -/
theorem keepsHostSide_tick (s : State) : KeepsHostSide s (.next (tick s)) := keepsHostSide_next rfl

/-- An owed step is taken off the list, and nothing else of the host's side moves (R155, R179). -/
theorem keepsHostSide_step_of_owed {s : State} {slot : Slot} {rest : List Slot} (h : s.slots = slot :: rest) :
    KeepsHostSide { s with slots := rest } (step s) := by
  cases slot with
  | cycle => rw [step_of_owed_cycle h]; exact keepsHostSide_cycle _
  | tick => rw [step_of_owed_tick h]; exact keepsHostSide_tick _

/-! ## The obligation -/

/-- Settles O55: an owed step by the frame of cycle and tick, a host call and silence by the step's equations. -/
theorem owedStepsComeBeforeHostCalls : Obligations.OwedStepsComeBeforeHostCalls := by
  intro s
  refine ⟨fun howed => ?_, fun c rest hs hi => ⟨step_of_host_call hs hi, ?_⟩, step_of_silence⟩
  · obtain ⟨slot, rest, hslots⟩ := List.exists_cons_of_ne_nil howed
    obtain ⟨t, hstep, hside⟩ := keepsHostSide_step_of_owed hslots
    obtain ⟨hkeys, himage, -, -, -, hrest, hinbox⟩ := State.hostSide_eq_iff.1 hside
    exact ⟨t, hstep, by rw [hrest, hslots, List.tail_cons], hinbox, hkeys, himage⟩
  · cases c <;> rfl

end Sys2Proof.Machine
end

section
/-! PROOFS. The frame rule of each state operation, and the frames built from them by composition (spec/10_state.md R15,
R30): every instruction, the tick, and the host's calls that are not the engine's. -/

namespace Sys2Proof.Machine

/-! ## Composing frames -/

theorem ChangesOnly.refl (s : State) (w : List Elem) : ChangesOnly s s w := fun e _ => by cases e <;> rfl

theorem Elem.Same.trans {s t u : State} {e : Elem} (h : e.Same s t) (h' : e.Same t u) : e.Same s u := by
  cases e <;> exact Eq.trans h' h

theorem ChangesOnly.trans {s t u : State} {w w' : List Elem} (h : ChangesOnly s t w) (h' : ChangesOnly t u w') :
    ChangesOnly s u (w ++ w') := fun e he =>
  have ⟨hw, hw'⟩ := not_or.1 (mt List.mem_append.2 he)
  (h e hw).trans (h' e hw')

theorem ChangesOnly.mono {s t : State} {w w' : List Elem} (h : ChangesOnly s t w) (hsub : w ⊆ w') : ChangesOnly s t w' :=
  fun e he => h e fun hw => he (hsub hw)

/-! ## What each operation changes -/

theorem changesOnly_setReg (s : State) (x : RegIdx) (b : Byte) : ChangesOnly s (s.setReg x b) [.reg x] := fun e he => by
  cases e with
  | reg r =>
    have hr : r ≠ x := by simpa using he
    exact (s.reg_setReg x b r).trans (if_neg hr)
  | _ => rfl

theorem changesOnly_setI (s : State) (w : Word) : ChangesOnly s (s.setI w) [.I] := fun e he => by
  cases e with
  | I => simp at he
  | _ => rfl

theorem changesOnly_setPc (s : State) (w : Word) : ChangesOnly s (s.setPc w) [.pc] := fun e he => by
  cases e with
  | pc => simp at he
  | _ => rfl

theorem changesOnly_push (s : State) (a : Word) : ChangesOnly s (s.push a) [.stack] := fun e he => by
  cases e with
  | stack => simp at he
  | _ => rfl

theorem changesOnly_dropTop (s : State) : ChangesOnly s s.dropTop [.stack] := fun e he => by
  cases e with
  | stack => simp at he
  | _ => rfl

theorem changesOnly_setFb (s : State) (b : DisplayBuffer) : ChangesOnly s (s.setFb b) [.fb] := fun e he => by
  cases e with
  | fb => simp at he
  | _ => rfl

theorem changesOnly_consumeByte (s : State) : ChangesOnly s s.consumeByte [.draws] := fun e he => by
  cases e with
  | draws => simp at he
  | _ => rfl

theorem changesOnly_setDT (s : State) (b : Byte) : ChangesOnly s (s.setDT b) [.DT] := fun e he => by
  cases e with
  | DT => simp at he
  | _ => rfl

theorem changesOnly_setST (s : State) (b : Byte) : ChangesOnly s (s.setST b) [.ST] := fun e he => by
  cases e with
  | ST => simp at he
  | _ => rfl

theorem changesOnly_setWait (s : State) (w : Option RegIdx) (k : Option Key) :
    ChangesOnly s (s.setWait w k) [.wait, .edge] := fun e he => by
  cases e with
  | wait | edge => simp at he
  | _ => rfl

/-- A block load changes V0..Vx (R103). -/
theorem changesOnly_loadRegs (s : State) (x : RegIdx) : ChangesOnly s (s.loadRegs x) (regsTo x) := fun e he => by
  cases e with
  | reg r =>
    have hr : ¬ r ≤ x := mt mem_regsTo.2 he
    simp only [Elem.Same, State.reg_loadRegs, if_neg hr]
  | _ => simp [Elem.Same]

/-- A store changes its own cells (R42). -/
theorem changesOnly_storeBytes (s : State) (base : Nat) (bs : List Byte) :
    ChangesOnly s (s.storeBytes base bs) (cells base bs.length) := fun e he => by
  cases e with
  | mem a => exact State.byteAt_storeBytes_other he
  | _ => rfl

/-- The destination and VF (R110). -/
theorem changesOnly_setFlagThen (s : State) (x : RegIdx) (f : Bool) (b : Byte) :
    ChangesOnly s (s.setFlagThen x f b) [.reg x, .reg VF] :=
  ((changesOnly_setReg s VF (flagByte f)).trans (changesOnly_setReg _ x b)).mono (List.Perm.swap _ _ _).subset

/-- The display and VF (R133). -/
theorem changesOnly_draw (s : State) (x y : RegIdx) (n : Fin 16) : ChangesOnly s (s.draw x y n) [.fb, .reg VF] :=
  (changesOnly_setFb s _).trans (changesOnly_setReg _ VF _)

theorem changesOnly_tick (s : State) : ChangesOnly s (tick s) [.DT, .ST] := fun e he => by
  cases e with
  | DT | ST => simp at he
  | _ => rfl

/-- Taking the next event changes only the lists of what is to come. -/
theorem State.popEvent_eq (s : State) : ∃ slots inbox, s.popEvent = { s with slots := slots, inbox := inbox } := by
  unfold State.popEvent
  split
  · exact ⟨_, _, rfl⟩
  · split <;> exact ⟨_, _, rfl⟩

theorem changesOnly_popEvent (s : State) : ChangesOnly s s.popEvent [.slots, .inbox] := fun e he => by
  obtain ⟨slots, inbox, hpop⟩ := s.popEvent_eq
  rw [hpop]
  cases e with
  | slots | inbox => simp at he
  | _ => rfl

/-- The clock phase and the owed steps (R154). -/
theorem changesOnly_advance (s : State) (dt : Nat) : ChangesOnly s (s.advance dt) [.slots, .cpuAcc, .tmrAcc] :=
  fun e he => by
    unfold State.advance
    split
    · exact ChangesOnly.refl s _ e he
    all_goals
      cases e with
      | slots | cpuAcc | tmrAcc => simp at he
      | _ => rfl

/-- The keypad and the latch (R175). -/
theorem changesOnly_setKey (s : State) (k : Key) (p : Bool) : ChangesOnly s (s.setKey k p) [.keys, .edge] :=
  fun e he => by
    unfold State.setKey
    split
    · exact ChangesOnly.refl s _ e he
    all_goals
      cases e with
      | keys | edge => simp at he
      | _ => rfl

/-- An instruction that goes on to the next one changes `pc` besides (R15, R82). -/
theorem ChangesOnly.toNext {s t : State} {w : List Elem} (h : ChangesOnly s t w) : ChangesOnly s t.toNext (w ++ [.pc]) :=
  h.trans (changesOnly_setPc t _)

/-! ## The frame of every instruction -/

theorem execRet_of_stack {s : State} {rest : List Word} {a : Word} (h : s.stack = rest ++ [a]) :
    exec .ret s = .next (s.dropTop.setPc a) := by
  have htop : s.top = some a := by simp [State.top, h]
  simp only [exec, execRet, htop]

theorem execCallAddr_of_room {s : State} (nnn : Addr) (h : s.stack.length < 16) :
    exec (.callAddr nnn) s = .next ((s.push (s.pc + 2)).setPc (zext16 nnn)) :=
  if_neg (Nat.not_le.2 h)

theorem execJpV0_of_jumpV0 {s : State} (nnn : Addr) (h : s.cfg.bnnnMode = .jumpV0) :
    exec (.jpV0 nnn) s = .next (s.setPc (zext16 nnn + (s.reg 0).zeroExtend 16)) := by
  simp only [exec, execJpV0, h]

/-- Where a range check finds no error, the access takes place. -/
theorem guardRange_of_no_error {s : State} {base n : Nat} (h : rangeError s base n = none) (go : Result) :
    guardRange s base n go = go :=
  guardRange_ok (rangeError_none.1 h) go

/-- A `RET` takes the top of a stack that is not empty and changes stack and `pc` (R83). -/
theorem execRet_frame {s : State} (h : s.stack ≠ []) : ∃ t, exec .ret s = .next t ∧ ChangesOnly s t [.stack, .pc] :=
  ⟨_, execRet_of_stack (List.dropLast_append_getLast h).symm, (changesOnly_dropTop s).trans (changesOnly_setPc _ _)⟩

/-- Settles O13: the updates an instruction consists of, their frames composed. -/
theorem instructionsChangeOnlyTheirFootprint : Obligations.InstructionsChangeOnlyTheirFootprint := by
  intro i s hok
  cases i with
  | cls => exact ⟨_, rfl, (changesOnly_setFb s _).toNext⟩
  | ret => exact execRet_frame fun hempty => by simp [errorOf, hempty] at hok
  | callAddr nnn =>
    have hroom : s.stack.length < 16 := by simpa [errorOf] using hok
    exact ⟨_, execCallAddr_of_room nnn hroom, (changesOnly_push s _).trans (changesOnly_setPc _ _)⟩
  | jpV0 nnn =>
    have hmode : s.cfg.bnnnMode = .jumpV0 := by
      cases hm : s.cfg.bnnnMode with
      | illegal => simp [errorOf, hm] at hok
      | jumpV0 => rfl
    exact ⟨_, execJpV0_of_jumpV0 nnn hmode, changesOnly_setPc s _⟩
  | jpAddr | seByte | sneByte | seReg | sneReg | skp | sknp => exact ⟨_, rfl, changesOnly_setPc s _⟩
  | ldByte | ldReg | addByte | orReg | andReg | xorReg | ldVxDT => exact ⟨_, rfl, (changesOnly_setReg s _ _).toNext⟩
  | addReg | sub | subn | shr | shl => exact ⟨_, rfl, (changesOnly_setFlagThen s _ _ _).toNext⟩
  | rnd x kk =>
    have hdraw := ((changesOnly_consumeByte s).trans (changesOnly_setReg _ x (s.drawByte &&& kk))).toNext
    exact ⟨_, rfl, hdraw.mono (List.Perm.swap _ _ _).subset⟩
  | drw x y n => exact ⟨_, guardRange_of_no_error hok _, (changesOnly_draw s x y n).toNext⟩
  | ldVxK => exact ⟨_, rfl, changesOnly_setWait s _ _⟩
  | ldDTVx => exact ⟨_, rfl, (changesOnly_setDT s _).toNext⟩
  | ldSTVx => exact ⟨_, rfl, (changesOnly_setST s _).toNext⟩
  | ldIAddr | addIVx | ldFVx => exact ⟨_, rfl, (changesOnly_setI s _).toNext⟩
  | ldBVx => exact ⟨_, guardRange_of_no_error hok _, (changesOnly_storeBytes s _ _).toNext⟩
  | ldMemVx x =>
    refine ⟨_, guardRange_of_no_error hok _, ?_⟩
    have hcells := (changesOnly_storeBytes s s.I.toNat (s.regsUpTo x)).toNext
    rwa [State.regsUpTo_length] at hcells
  | ldVxMem x => exact ⟨_, guardRange_of_no_error hok _, (changesOnly_loadRegs s x).toNext⟩

/-! ## Call and return -/

/-- Settles O18: the address the CALL pushed is on top of the stack the RET pops. -/
theorem returnAfterCallContinuesAfterIt : Obligations.ReturnAfterCallContinuesAfterIt := by
  intro nnn s t u hroom hcall hstack
  rw [execCallAddr_of_room nnn hroom] at hcall
  cases hcall
  have hu : u.stack = s.stack ++ [s.pc + 2] := hstack
  refine ⟨_, execRet_of_stack hu, (changesOnly_dropTop u).trans (changesOnly_setPc _ _), rfl, ?_⟩
  simp [hu]

/-! ## Steps that are not the engine's -/

/-- Settles O56: the frame of the event taken off its list, then that of the tick or the call. -/
theorem onlyTheEngineChangesProgramState : Obligations.OnlyTheEngineChangesProgramState := by
  intro s t hcycle hreset hload hstep
  have hpop := changesOnly_popEvent s
  rcases step_cases hstep with ⟨hev, -⟩ | ⟨-, rfl⟩ | ⟨c, hev, rfl⟩ | ⟨-, rfl⟩
  · exact absurd hev hcycle
  · exact (hpop.trans (changesOnly_tick _)).mono (by decide)
  · cases c with
    | load bytes => exact absurd hev (hload bytes)
    | reset => exact absurd hev hreset
    | advance dt => exact (hpop.trans (changesOnly_advance _ dt)).mono (by decide)
    | setKeyState k p => exact (hpop.trans (changesOnly_setKey _ k p)).mono (by decide)
  · exact ChangesOnly.refl _ _

end Sys2Proof.Machine
end

section
/-! PROOFS. Every step keeps memory in canonical form (spec/10_state.md R18, spec/20_memory.md R40, R42), and every step
keeps the whole invariant of reachable states. -/

namespace Sys2Proof.Machine

/-! ## Memory -/

/-- `t` has the memory of `s`, or that memory with one store in it that lies within the address space (R42). -/
def MemKeptOrStored (s t : State) : Prop :=
  t.mem = s.mem ∨ ∃ base bs, base + bs.length ≤ 0x1000 ∧ t.mem = s.mem.writeBytes base bs

theorem MemKeptOrStored.wf {s t : State} (h : MemKeptOrStored s t) (hwf : s.mem.Wf) : t.mem.Wf := by
  rcases h with hkept | ⟨base, bs, hrange, hstored⟩
  · rwa [hkept]
  · rw [hstored]; exact Memory.wf_writeBytes bs hwf hrange

/-- A guarded store of `bs` at `base`, whatever else it writes. -/
theorem memKeptOrStored_guardRange {s t u : State} {base : Nat} {bs : List Byte}
    (h : guardRange s base bs.length (.next u) = .next t) (hu : u.mem = s.mem.writeBytes base bs) :
    MemKeptOrStored s t := by
  rcases guardRange_next h with ⟨e, -, rfl⟩ | ⟨hrange, hgo⟩
  · exact .inl rfl
  · cases hgo
    rcases rangeError_none.1 hrange with hnil | hin
    · rw [List.length_eq_zero_iff.1 hnil] at hu; exact .inl hu
    · exact .inr ⟨base, bs, hin, hu⟩

/-- An access that goes on to write no memory. -/
theorem mem_guardRange {s t u : State} {base n : Nat} (h : guardRange s base n (.next u) = .next t)
    (hu : u.mem = s.mem) : t.mem = s.mem := by
  rcases guardRange_next h with ⟨e, -, rfl⟩ | ⟨-, hgo⟩
  · rfl
  · cases hgo; exact hu

/-- `LD B, Vx` and `LD [I], Vx` alone write memory (R104, R105). -/
theorem memKeptOrStored_exec {i : Instr} {s t : State} (h : exec i s = .next t) : MemKeptOrStored s t := by
  cases i with
  | ldBVx x => exact memKeptOrStored_guardRange (bs := bcdDigits (s.reg x)) h rfl
  | ldMemVx x =>
    rw [exec, execLdMemVx, ← s.regsUpTo_length x] at h
    exact memKeptOrStored_guardRange h rfl
  | drw | ldVxMem => exact .inl (mem_guardRange h rfl)
  | ret =>
    simp only [exec, execRet] at h
    split at h <;> cases h <;> exact .inl rfl
  | callAddr nnn =>
    simp only [exec, execCallAddr] at h
    split at h <;> cases h <;> exact .inl rfl
  | jpV0 nnn =>
    simp only [exec, execJpV0] at h
    split at h <;> cases h <;> exact .inl rfl
  | _ => cases h; exact .inl rfl

theorem memKeptOrStored_cycle {s t : State} (h : cycle s = .next t) : MemKeptOrStored s t := by
  rcases cycle_cases h with ⟨-, rfl⟩ | ⟨x, -, -, hwait⟩ | ⟨-, -, hfetch⟩
  · exact .inl rfl
  · rcases waitCycle_cases hwait with ⟨k, -, rfl⟩ | ⟨-, rfl⟩ <;> exact .inl rfl
  · rcases fetchExecute_cases hfetch with ⟨e, -, rfl⟩ | ⟨-, -, rfl⟩ | ⟨i, -, -, hexec⟩
    · exact .inl rfl
    · exact .inl rfl
    · exact memKeptOrStored_exec hexec

/-- A CPU cycle leaves the program image alone (R30). -/
theorem image_cycle {s t : State} (h : cycle s = .next t) : t.image = s.image := by
  obtain ⟨t', ht', hside⟩ := keepsHostSide_cycle s
  cases h.symm.trans ht'
  exact (State.hostSide_eq_iff.1 hside).2.1

/-- Memory is in canonical form and the image fits. -/
def State.MemOk (s : State) : Prop := s.mem.Wf ∧ s.image.length ≤ 3584

theorem State.memOk_recreate (s : State) {image : List Byte} (h : image.length ≤ 3584) : (s.recreate image).MemOk :=
  ⟨Memory.wf_load s.cfg.font h, h⟩

theorem State.MemOk.hostCall {s : State} (h : s.MemOk) (c : HostCall) : (s.hostCall c).MemOk := by
  cases c with
  | load bytes =>
    rw [State.hostCall]
    rcases Nat.lt_or_ge 3584 bytes.length with hlong | hfits
    · rw [State.load_error hlong]; exact h
    · rw [State.load_ok hfits]; exact s.memOk_recreate hfits
  | reset =>
    simp only [State.hostCall, State.hostReset]
    split
    · exact h
    all_goals exact s.memOk_recreate h.2
  | advance dt => simp only [State.hostCall, State.advance]; split <;> exact h
  | setKeyState k p => simp only [State.hostCall, State.setKey]; split <;> exact h

/-- Settles O59: a cycle writes memory by stores within the address space only, a host's call by loading an image. -/
theorem stepKeepsMemoryCanonical : Obligations.StepKeepsMemoryCanonical := by
  intro s t hwf himage hstep
  have hpop : s.popEvent.MemOk := by
    rw [State.MemOk, State.popEvent_mem, State.popEvent_image]
    exact ⟨hwf, himage⟩
  rcases step_cases hstep with ⟨-, hcycle⟩ | ⟨-, rfl⟩ | ⟨c, -, rfl⟩ | ⟨-, rfl⟩
  · exact ⟨(memKeptOrStored_cycle hcycle).wf hpop.1, (image_cycle hcycle).symm ▸ hpop.2⟩
  · exact hpop
  · exact hpop.hostCall c
  · exact ⟨hwf, himage⟩

/-! ## The invariant under each operation

`Ready` is the state the engine is in when it comes to execute an instruction. The operations that write the elements of
an instruction keep it; each way to complete the instruction leads from it to the invariant. -/

/-- The invariant holds and the engine is at an instruction: Running, no wait, both bytes at `pc` in memory (R80, R81). -/
structure State.Ready (s : State) : Prop extends s.Inv where
  running : s.run = .running
  noWait : s.wait = none
  fits : s.pc.toNat ≤ 0xFFE

theorem le_pcMax {n : Nat} (h : n ≤ 0x1002) (m : BnnnMode) : n ≤ pcMax m := by
  cases m with
  | illegal => exact h
  | jumpV0 => exact Nat.le_trans h (by decide)

namespace State.Ready

variable {s : State}

/-- No clause speaks of the registers. -/
theorem withV (h : s.Ready) (v : Vector Byte 16) : ({ s with V := v } : State).Ready := { h with }

theorem setReg (h : s.Ready) (x : RegIdx) (b : Byte) : (s.setReg x b).Ready := h.withV _

theorem setFlagThen (h : s.Ready) (x : RegIdx) (f : Bool) (b : Byte) : (s.setFlagThen x f b).Ready :=
  (h.setReg VF _).setReg x b

theorem loadRegs (h : s.Ready) (x : RegIdx) : (s.loadRegs x).Ready := h.withV _

theorem setFb (h : s.Ready) (b : DisplayBuffer) : (s.setFb b).Ready := { h with }

theorem draw (h : s.Ready) (x y : RegIdx) (n : Fin 16) : (s.draw x y n).Ready := (h.setFb _).setReg VF _

theorem consumeByte (h : s.Ready) : s.consumeByte.Ready := { h with }

theorem setI (h : s.Ready) {w : Word} (hw : w.toNat ≤ 0xFFF) : (s.setI w).Ready := { h with index := hw }

/-- The timers are free while the engine runs. -/
theorem setDT (h : s.Ready) (b : Byte) : (s.setDT b).Ready :=
  { h with stopped := fun hr => nomatch h.running.symm.trans hr }

theorem setST (h : s.Ready) (b : Byte) : (s.setST b).Ready :=
  { h with stopped := fun hr => nomatch h.running.symm.trans hr }

theorem storeBytes (h : s.Ready) {base : Nat} {bs : List Byte} (hin : base + bs.length ≤ 0x1000) :
    (s.storeBytes base bs).Ready :=
  { h with mem := State.storeBytes_wf h.mem hin }

theorem toNat_pc_add_two (h : s.Ready) : (s.pc + 2).toNat = s.pc.toNat + 2 := by
  have hfits := h.fits
  bv_omega

theorem toNat_pc_add_four (h : s.Ready) : (s.pc + 4).toNat = s.pc.toNat + 4 := by
  have hfits := h.fits
  bv_omega

/-- A CALL pushes the address after it, which is one of R83. -/
theorem push (h : s.Ready) (hroom : s.stack.length < 16) : (s.push (s.pc + 2)).Ready :=
  { h with
    depth := by rw [State.push_stack, List.length_append]; exact hroom
    entries := fun a ha => by
      rcases List.mem_append.1 ha with hold | hnew
      · exact h.entries a hold
      · have hfits := h.fits
        rw [List.mem_singleton.1 hnew, h.toNat_pc_add_two]
        omega }

theorem dropTop (h : s.Ready) : s.dropTop.Ready :=
  { h with
    depth := Nat.le_trans (by simp) h.depth
    entries := fun a ha => h.entries a (List.dropLast_subset _ ha) }

/-! ### Ways to complete an instruction -/

theorem setPc (h : s.Ready) {w : Word} (hw : w.toNat ≤ pcMax s.cfg.bnnnMode) : (s.setPc w).Inv :=
  { h with
    pc := hw
    status := by
      have hstatus := h.status
      rw [State.StatusOk, h.running] at hstatus
      rw [State.StatusOk, State.setPc_run, h.running]
      exact hstatus
    waiting := fun hwait => absurd h.noWait hwait }

theorem toNext (h : s.Ready) : s.toNext.Inv := by
  have hfits := h.fits
  exact h.setPc (le_pcMax (by rw [h.toNat_pc_add_two]; omega) _)

theorem skipIf (h : s.Ready) (c : Bool) : (s.skipIf c).Inv := by
  cases c with
  | false => exact h.toNext
  | true =>
    have hpc : (s.pc + 4).toNat ≤ 0x1002 := by
      have hfits := h.fits
      rw [h.toNat_pc_add_four]
      omega
    exact h.setPc (le_pcMax hpc _)

theorem setWait (h : s.Ready) (x : RegIdx) : (s.setWait (some x) none).Inv :=
  { h with
    waiting := fun _ => ⟨h.fits, fun hr => nomatch h.running.symm.trans hr⟩
    latched := fun hedge => absurd rfl hedge }

end State.Ready

/-- An error raised at `pc` outside a wait leads into Halted with the record of that instruction (R197). -/
theorem State.Inv.halt {s : State} {e : ErrorRecord} (h : s.Inv) (hwait : s.wait = none) (he : FatalAt s.pc e) :
    (s.halt e).Inv :=
  { h with
    status := ⟨e, rfl, he⟩
    stopped := fun hr => nomatch hr
    waiting := fun hw => absurd hwait hw }

theorem fatalAt_of_rangeError {s : State} {base n : Nat} {e : ErrorRecord} (h : rangeError s base n = some e) :
    FatalAt s.pc e :=
  .inl (rangeError_some h)

/-! ## The invariant under execution -/

/-- Whatever next state `r` answers has the invariant. -/
def AnswersInv (r : Result) : Prop := ∀ t, r = .next t → t.Inv

theorem State.Inv.answers {t : State} (h : t.Inv) : AnswersInv (.next t) := fun _ ht => by cases ht; exact h

theorem State.Ready.answers_raise {s : State} {e : ErrorRecord} (h : s.Ready) (he : FatalAt s.pc e) :
    AnswersInv (raise s e) :=
  (h.toInv.halt h.noWait he).answers

theorem State.Ready.answers_guardRange {s u : State} {base n : Nat} (h : s.Ready)
    (hgo : n = 0 ∨ base + n ≤ 0x1000 → u.Inv) : AnswersInv (guardRange s base n (.next u)) := fun t ht => by
  rcases guardRange_next ht with ⟨e, he, rfl⟩ | ⟨hok, hnext⟩
  · exact h.toInv.halt h.noWait (fatalAt_of_rangeError he)
  · cases hnext; exact hgo (rangeError_none.1 hok)

theorem State.Ready.answers_execRet {s : State} (h : s.Ready) : AnswersInv (execRet s) := by
  unfold execRet
  split
  · exact h.answers_raise (.inr (.inr (.inl rfl)))
  next a htop =>
    have ha : a ∈ s.stack := List.mem_of_getLast? htop
    exact (h.dropTop.setPc (le_pcMax (Nat.le_trans (h.entries a ha).2 (by decide)) _)).answers

theorem State.Ready.setPc_zext16 {s : State} (h : s.Ready) (nnn : Addr) : (s.setPc (zext16 nnn)).Inv := by
  have hnnn := nnn.isLt
  exact h.setPc (le_pcMax (by rw [zext16_toNat]; omega) _)

theorem State.Ready.answers_execCallAddr {s : State} (h : s.Ready) (nnn : Addr) : AnswersInv (execCallAddr nnn s) := by
  unfold execCallAddr
  split
  · exact h.answers_raise (.inr (.inl rfl))
  next hroom => exact ((h.push (Nat.lt_of_not_le hroom)).setPc_zext16 nnn).answers

/-- The sum of `JP V0, addr` is not reduced, and stays below 0x10FF (R16, R90). -/
theorem zext16_add_byte_le (nnn : Addr) (b : Byte) : (zext16 nnn + b.zeroExtend 16).toNat ≤ 0x10FE := by
  have hnnn := nnn.isLt
  have hb := b.isLt
  have hbyte : (b.zeroExtend 16).toNat = b.toNat := by simp; omega
  rw [BitVec.toNat_add, zext16_toNat, hbyte]
  omega

theorem State.Ready.answers_execJpV0 {s : State} (h : s.Ready) (nnn : Addr) : AnswersInv (execJpV0 nnn s) := by
  unfold execJpV0
  split
  next hmode =>
    refine (h.setPc ?_).answers
    rw [hmode]
    exact zext16_add_byte_le nnn (s.reg 0)
  · exact h.answers_raise (.inr (.inr (.inr ⟨_, rfl⟩)))

theorem State.Ready.answers_store {s : State} (h : s.Ready) (bs : List Byte) :
    AnswersInv (guardRange s s.I.toNat bs.length (.next (s.storeBytes s.I.toNat bs).toNext)) :=
  h.answers_guardRange fun hin => by
    rcases hin with hnil | hin
    · rw [List.length_eq_zero_iff.1 hnil]; exact h.toNext
    · exact (h.storeBytes hin).toNext

/-- The `I` that `ADD I, Vx` computes has 12 bits (R113). -/
theorem toNat_ofNat_mod_le (n : Nat) : (BitVec.ofNat 16 (n % 0x1000)).toNat ≤ 0xFFF := by
  rw [BitVec.toNat_ofNat]
  omega

/-- Every instruction keeps the invariant. -/
theorem State.Ready.answers_exec {s : State} (h : s.Ready) (i : Instr) : AnswersInv (exec i s) := by
  cases i with
  | cls => exact (h.setFb _).toNext.answers
  | ret => exact h.answers_execRet
  | jpAddr nnn => exact (h.setPc_zext16 nnn).answers
  | callAddr nnn => exact h.answers_execCallAddr nnn
  | jpV0 nnn => exact h.answers_execJpV0 nnn
  | seByte | sneByte | seReg | sneReg | skp | sknp => exact (h.skipIf _).answers
  | ldByte | ldReg | addByte | orReg | andReg | xorReg | ldVxDT => exact (h.setReg _ _).toNext.answers
  | addReg | sub | subn | shr | shl => exact (h.setFlagThen _ _ _).toNext.answers
  | rnd => exact (h.consumeByte.setReg _ _).toNext.answers
  | drw x y n => exact h.answers_guardRange fun _ => (h.draw x y n).toNext
  | ldVxK x => exact (h.setWait x).answers
  | ldDTVx => exact (h.setDT _).toNext.answers
  | ldSTVx => exact (h.setST _).toNext.answers
  | ldIAddr nnn =>
    have hnnn := nnn.isLt
    exact (h.setI (by rw [zext16_toNat]; omega)).toNext.answers
  | addIVx x => exact (h.setI (toNat_ofNat_mod_le _)).toNext.answers
  | ldFVx x =>
    have hdigit := (lowNibble (s.reg x)).isLt
    exact (h.setI (by rw [fontAddr_toNat]; omega)).toNext.answers
  | ldBVx x => exact h.answers_store (bcdDigits (s.reg x))
  | ldMemVx x =>
    have hstore := h.answers_store (s.regsUpTo x)
    rwa [State.regsUpTo_length] at hstore
  | ldVxMem x => exact h.answers_guardRange fun _ => (h.loadRegs x).toNext

/-! ## The invariant under cycles, ticks and host calls -/

theorem State.Inv.fetchExecute {s t : State} (h : s.Inv) (hrun : s.run = .running) (hwait : s.wait = none)
    (ht : fetchExecute s = .next t) : t.Inv := by
  rcases fetchExecute_cases ht with ⟨e, he, rfl⟩ | ⟨-, -, rfl⟩ | ⟨i, hfits, -, hexec⟩
  · exact h.halt hwait (fatalAt_of_rangeError he)
  · exact h.halt hwait (.inr (.inr (.inr ⟨_, rfl⟩)))
  · exact State.Ready.answers_exec ⟨h, hrun, hwait, hfits⟩ i t hexec

/-- The end of a key wait leaves the engine ready to go on (R147). -/
theorem State.Inv.waitOver {s : State} (h : s.Inv) (hrun : s.run = .running) (hwait : s.wait ≠ none) :
    (s.setWait none none).Ready :=
  { h with
    waiting := fun hw => absurd rfl hw
    latched := fun hedge => absurd rfl hedge
    running := hrun
    noWait := rfl
    fits := (h.waiting hwait).1 }

theorem State.Inv.waitCycle {s t : State} {x : RegIdx} (h : s.Inv) (hrun : s.run = .running) (hwait : s.wait = some x)
    (ht : waitCycle x s = .next t) : t.Inv := by
  rcases waitCycle_cases ht with ⟨k, -, rfl⟩ | ⟨-, rfl⟩
  · exact ((h.waitOver hrun (by simp [hwait])).setReg x (BitVec.ofNat 8 k.val)).toNext
  · exact h

theorem State.Inv.cycle {s t : State} (h : s.Inv) (ht : cycle s = .next t) : t.Inv := by
  rcases cycle_cases ht with ⟨-, rfl⟩ | ⟨x, hrun, hwait, hcycle⟩ | ⟨hrun, hwait, hfetch⟩
  · exact h
  · exact h.waitCycle hrun hwait hcycle
  · exact h.fetchExecute hrun hwait hfetch

theorem State.Inv.tick {s : State} (h : s.Inv) : (tick s).Inv :=
  { h with
    stopped := fun hr => by
      obtain ⟨hdt, hst⟩ := h.stopped hr
      rw [State.tick_DT, State.tick_ST, hdt, hst]
      decide }

theorem State.Inv.popEvent {s : State} (h : s.Inv) : s.popEvent.Inv := by
  obtain ⟨slots, inbox, hpop⟩ := s.popEvent_eq
  rw [hpop]
  exact { h with }

/-- The reset values of R28 have the invariant, whatever canonical memory, fitting image and positive rates go with
them. -/
theorem State.inv_resetValues {m : Memory} {image : List Byte} {c : Config} (draws : Nat) (inbox : List HostCall)
    (hmem : m.Wf) (himage : image.length ≤ 3584) (hcfg : c.Ok) :
    ({ State.reset with mem := m, image := image, cfg := c, draws := draws, inbox := inbox } : State).Inv where
  mem := hmem
  cfg := hcfg
  image := himage
  index := Nat.zero_le _
  depth := Nat.zero_le _
  entries := fun _ ha => nomatch ha
  pc := le_pcMax (n := 0x200) (by decide) _
  accs := ⟨hcfg.2, hcfg.2⟩
  status := rfl
  stopped := fun hr => nomatch hr
  waiting := fun hw => absurd rfl hw
  latched := fun hedge => absurd rfl hedge

theorem State.inv_recreate {s : State} (hcfg : s.cfg.Ok) {image : List Byte} (himage : image.length ≤ 3584) :
    (s.recreate image).Inv :=
  State.inv_resetValues s.draws s.inbox (Memory.wf_load s.cfg.font himage) himage hcfg

theorem State.Inv.load {s : State} (h : s.Inv) (bytes : List Byte) : (s.load bytes).Inv := by
  rcases Nat.lt_or_ge 3584 bytes.length with hlong | hfits
  · rw [State.load_error hlong]
    exact { h with
      status := .inr ⟨_, hlong, rfl⟩
      stopped := fun _ => ⟨rfl, rfl⟩
      waiting := fun hw => ⟨(h.waiting hw).1, fun hr => nomatch hr⟩ }
  · rw [State.load_ok hfits]
    exact State.inv_recreate h.cfg hfits

theorem State.Inv.hostReset {s : State} (h : s.Inv) : s.hostReset.Inv := by
  unfold State.hostReset
  split
  · exact h
  all_goals exact State.inv_recreate h.cfg h.image

theorem State.Inv.advance {s : State} (h : s.Inv) (dt : Nat) : (s.advance dt).Inv := by
  unfold State.advance
  split
  · exact h
  all_goals exact { h with accs := ⟨Nat.mod_lt _ h.cfg.2, Nat.mod_lt _ h.cfg.2⟩ }

/-- The latch is set during a wait only (R146). -/
theorem State.Inv.latch {s : State} (h : s.Inv) {k : Key} {p : Bool} (hlatch : s.latch k p ≠ none) : s.wait ≠ none := by
  unfold State.latch at hlatch
  split at hlatch
  next hfresh =>
    obtain ⟨-, -, hwait, -⟩ := hfresh
    exact Option.isSome_iff_ne_none.1 hwait
  · exact h.latched hlatch

theorem State.Inv.setKey {s : State} (h : s.Inv) (k : Key) (p : Bool) : (s.setKey k p).Inv := by
  unfold State.setKey
  split
  · exact h
  all_goals exact { h with latched := h.latch }

theorem State.Inv.hostCall {s : State} (h : s.Inv) (c : HostCall) : (s.hostCall c).Inv := by
  cases c with
  | load bytes => exact h.load bytes
  | reset => exact h.hostReset
  | advance dt => exact h.advance dt
  | setKeyState k p => exact h.setKey k p

/-- Settles O57: by the kind of step, each of which keeps the invariant. -/
theorem stepKeepsTheInvariant : Obligations.StepKeepsTheInvariant := by
  intro s t h hstep
  rcases step_cases hstep with ⟨-, hcycle⟩ | ⟨-, rfl⟩ | ⟨c, -, rfl⟩ | ⟨-, rfl⟩
  · exact h.popEvent.cycle hcycle
  · exact h.popEvent.tick
  · exact h.popEvent.hostCall c
  · exact h

/-- Settles O58: the reset values, with a memory that lists nothing. -/
theorem resetHasTheInvariant : Obligations.ResetHasTheInvariant :=
  State.inv_resetValues 0 [] ⟨List.Pairwise.nil, fun _ hc => nomatch hc⟩ (Nat.zero_le _)
    ⟨Nat.succ_pos _, Nat.succ_pos _⟩

end Sys2Proof.Machine
end

section
/-! PROOFS. The flag register after a flag-defining instruction (spec/10_state.md R12), that no instruction reads `ST`
(R21), and the reset values (R28). -/

namespace Sys2Proof.Machine

/-! ## Flags -/

/-- With another destination than VF, VF holds the flag (R110). -/
theorem State.reg_VF_setFlagThen (s : State) {x : RegIdx} (hx : x ≠ VF) (f : Bool) (b : Byte) :
    (s.setFlagThen x f b).reg VF = flagByte f := by
  rw [State.reg_setFlagThen, if_neg hx.symm, if_pos rfl]

/-- Settles O14: what VF holds is a flag byte, and a flag byte is 0 or 1. -/
theorem flagsAreZeroOrOne : Obligations.FlagsAreZeroOrOne := by
  intro x y n i s t hi hok hexec
  suffices hflag : ∃ f, t.reg VF = flagByte f by
    obtain ⟨f, hf⟩ := hflag
    rw [hf]
    exact flagByte_eq f
  rcases hi with rfl | ⟨hx, rfl | rfl | rfl | rfl | rfl⟩
  · rw [exec, execDrw, guardRange_of_no_error hok] at hexec
    cases hexec
    exact ⟨_, (s.reg_draw x y n VF).trans (if_pos rfl)⟩
  all_goals
    cases hexec
    exact ⟨_, s.reg_VF_setFlagThen hx _ _⟩

/-! ## The sound timer is not read -/

/-- `r` with `b` in the `ST` of the state it answers. -/
def Result.withST (r : Result) (b : Byte) : Result :=
  match r with
  | .next t => .next (t.setST b)
  | .fault f => .fault f
  | .refused q => .refused q

theorem guardRange_setST (s u : State) (b : Byte) (base n : Nat) :
    guardRange (s.setST b) base n (.next (u.setST b)) = Result.withST (guardRange s base n (.next u)) b := by
  unfold guardRange
  split <;> rfl

theorem execRet_setST (s : State) (b : Byte) : execRet (s.setST b) = Result.withST (execRet s) b := by
  have htop : (s.setST b).top = s.top := rfl
  unfold execRet
  rw [htop]
  split <;> rfl

theorem execCallAddr_setST (nnn : Addr) (s : State) (b : Byte) :
    execCallAddr nnn (s.setST b) = Result.withST (execCallAddr nnn s) b := by
  unfold execCallAddr
  rw [State.setST_stack]
  split <;> rfl

theorem execJpV0_setST (nnn : Addr) (s : State) (b : Byte) :
    execJpV0 nnn (s.setST b) = Result.withST (execJpV0 nnn s) b := by
  unfold execJpV0
  rw [State.setST_cfg]
  split <;> rfl

/-- Writing `ST` before an instruction other than `LD ST, Vx` is writing it after. -/
theorem exec_setST {i : Instr} (hi : ∀ x, i ≠ .ldSTVx x) (s : State) (b : Byte) :
    exec i (s.setST b) = Result.withST (exec i s) b := by
  cases i with
  | ret => exact execRet_setST s b
  | callAddr nnn => exact execCallAddr_setST nnn s b
  | jpV0 nnn => exact execJpV0_setST nnn s b
  | drw x y n => exact guardRange_setST s (s.draw x y n).toNext b _ _
  | ldBVx x => exact guardRange_setST s (s.storeBytes s.I.toNat (bcdDigits (s.reg x))).toNext b _ _
  | ldMemVx x => exact guardRange_setST s (s.storeBytes s.I.toNat (s.regsUpTo x)).toNext b _ _
  | ldVxMem x => exact guardRange_setST s (s.loadRegs x).toNext b _ _
  | ldSTVx x => exact absurd rfl (hi x)
  | _ => rfl

/-- Settles O42: writing `ST` commutes with every instruction but `LD ST, Vx`, which overwrites it. -/
theorem soundTimerIsNotRead : Obligations.SoundTimerIsNotRead := by
  refine ⟨fun i s t b hi hexec => ?_, fun x s b => rfl⟩
  have hcomm := exec_setST hi s b
  rwa [hexec] at hcomm

/-! ## Reset values -/

/-- Above the font an address that is not listed reads as zero (R28). -/
theorem Memory.unlisted_of_font_le {a : Nat} (h : 0x50 ≤ a) : Memory.unlisted a = 0 :=
  List.getD_eq_default _ _ (by rwa [Vector.length_toList])

/-- What loading an image leaves in memory (R28, R172): the font, zeros, the image, zeros. -/
theorem Memory.read_load (font : Vector Byte 80) (image : List Byte) (a : Nat) :
    (Memory.load font image).read a =
      if a < 0x50 then font.toList.getD a 0 else if a < 0x200 then 0 else image.getD (a - 0x200) 0 := by
  simp only [Memory.load, Memory.read_writeBytes, Memory.read, Nat.zero_le, if_true, Nat.sub_zero]
  rcases Nat.lt_or_ge a 0x50 with hfont | hfont
  · have hin : a < font.toList.length := by rwa [Vector.length_toList]
    simp [hfont, show ¬ 0x200 ≤ a by omega]
  · have hout : font.toList.length ≤ a := by rwa [Vector.length_toList]
    rw [List.getD_eq_default _ _ hout, Memory.unlisted_of_font_le hfont, if_neg (Nat.not_lt.2 hfont)]
    rcases Nat.lt_or_ge a 0x200 with hgap | himage
    · rw [if_pos hgap, if_neg (Nat.not_le.2 hgap)]
    · rw [if_neg (Nat.not_lt.2 himage), if_pos himage]

theorem State.reset_reg (r : RegIdx) : State.reset.reg r = 0 := by simp [State.reset, State.reg]

theorem State.reset_keys (k : Key) : State.reset.keys[k] = false := by simp [State.reset]

/-- Settles O49: re-creation is the reset state with the memory that was loaded. -/
theorem initializeLeavesTheResetState : Obligations.InitializeLeavesTheResetState := by
  intro s bytes hfits
  rw [State.load_ok hfits]
  exact ⟨Memory.read_load s.cfg.font bytes, State.reset_reg, rfl, rfl, rfl, DisplayBuffer.pixel_allOff,
    State.reset_keys, rfl, rfl, rfl, rfl, rfl, rfl, rfl, rfl, rfl, rfl⟩

/-- Settles O60: the values of R28 one by one. -/
theorem resetStateHoldsTheResetValues : Obligations.ResetStateHoldsTheResetValues :=
  ⟨State.reset_reg, rfl, rfl, rfl, DisplayBuffer.pixel_allOff, rfl, rfl, rfl, rfl, rfl,
    fun _ hfont => Memory.unlisted_of_font_le hfont⟩

end Sys2Proof.Machine
end

section
/-! PROOFS. The block store (spec/41_load_move.md R104) into the bytes the next cycle fetches (spec/20_memory.md R52). -/

namespace Sys2Proof.Machine

/-- Within memory a block store writes V0..Vx from I on and advances `pc` (R104). -/
theorem execLdMemVx_of_in_range {s : State} {x : RegIdx} (h : s.I.toNat + x.val ≤ 0xFFF) :
    exec (.ldMemVx x) s = .next (s.storeBytes s.I.toNat (s.regsUpTo x)).toNext :=
  guardRange_ok (.inr (by omega)) _

/-- The byte at offset `r` of a block store is Vr (R104). -/
theorem State.byteAt_storeBytes_regsUpTo (s : State) (base : Nat) {r x : RegIdx} (h : r ≤ x) :
    (s.storeBytes base (s.regsUpTo x)).byteAt (base + r.val) = s.reg r := by
  have hr : r.val < (s.regsUpTo x).length := by
    rw [State.regsUpTo_length]
    exact Nat.lt_succ_of_le h
  rw [State.byteAt_storeBytes_at hr, State.regsUpTo_getElem]

/-- Settles O27: I is the new `pc`, so the two bytes fetched are the first two of the block stored. -/
theorem storedBytesAreFetchedNext : Obligations.StoredBytesAreFetchedNext := by
  intro x s t hx hI hrange hexec
  rw [execLdMemVx_of_in_range hrange] at hexec
  cases hexec
  have hpc : (s.pc + 2).toNat = s.I.toNat := by bv_omega
  have hV0 := s.byteAt_storeBytes_regsUpTo s.I.toNat (Fin.zero_le x)
  have hV1 := s.byteAt_storeBytes_regsUpTo s.I.toNat (r := 1) hx
  refine ⟨rfl, ?_⟩
  rw [State.toNext_pc, State.storeBytes_pc, hpc, State.toNext_byteAt, State.toNext_byteAt]
  exact congrArg₂ _ hV0 hV1

end Sys2Proof.Machine
end

section
/-! PROOFS. Decoder and encoder are inverse to each other (spec/30_encoding.md R61 to R69). -/

namespace Sys2Proof

/-! ## What the decoder answers -/

/-- The decoder of mode `m` answers the row of a word where `m` knows the instruction (R65, R67). -/
theorem decode_eq_ok_iff {m : BnnnMode} {w : Word} {i : Instr} :
    decode m w = .ok i ↔ decodeRow w = some i ∧ WellFormed m i = true :=
  ⟨Machine.wellFormed_of_decode, fun ⟨hrow, hwf⟩ => by simp [decode, hrow, hwf]⟩

/-- The only rejection of a whole word names it (R66). -/
theorem decode_error {m : BnnnMode} {w : Word} {r : Reject} (h : decode m w = .error r) : r = .unknownOpcode w := by
  unfold decode at h
  split at h
  next i _ =>
    split at h
    next => cases h
    next => cases h; rfl
  next => cases h; rfl

/-! ## Each format as its four nibbles, read back -/

/-- A row read from its `nnn` is read back from the word of format A. -/
theorem decodeRow_encodeA {op : Nibble} {row : Addr → Option Instr}
    (h : ∀ b c d, decodeNibbles op b c d = row (b ++ c ++ d)) (nnn : Addr) :
    decodeRow (encodeA op nnn) = row nnn := by
  rw [encodeA_nibbles, decodeRow_joinNibbles, h, addr_of_nibbles]

/-- A row read from its `x` and `kk` is read back from the word of format XK. -/
theorem decodeRow_encodeXK {op : Nibble} {row : RegIdx → Byte → Option Instr}
    (h : ∀ b c d, decodeNibbles op b c d = row b.idx (c ++ d)) (x : RegIdx) (kk : Byte) :
    decodeRow (encodeXK op x kk) = row x kk := by
  rw [encodeXK_nibbles, decodeRow_joinNibbles, h, byte_of_nibbles, Nibble.idx_ofIdx]

/-- The word of formats XY and XYN is decoded from its four nibbles. -/
theorem decodeRow_encodeXY (op : Nibble) (x y : RegIdx) (last : Nibble) :
    decodeRow (encodeXY op x y last) = decodeNibbles op (Nibble.ofIdx x) (Nibble.ofIdx y) last :=
  decodeRow_joinNibbles _ _ _ _

/-- The word of an instruction is of that instruction's row, the optional row included. -/
theorem decodeRow_encode (i : Instr) : decodeRow (encode i) = some i := by
  cases i with
  | cls | ret => decide
  | jpAddr nnn | callAddr nnn | ldIAddr nnn | jpV0 nnn =>
    exact decodeRow_encodeA (row := fun nnn => some _) (fun _ _ _ => rfl) nnn
  | seByte x kk | sneByte x kk | ldByte x kk | addByte x kk | rnd x kk =>
    exact decodeRow_encodeXK (row := fun x kk => some _) (fun _ _ _ => rfl) x kk
  | seReg x y | sneReg x y | ldReg x y | orReg x y | andReg x y | xorReg x y =>
    exact decodeRow_encodeXY _ x y _
  | addReg x y | sub x y | subn x y | shr x y | shl x y | drw x y n =>
    exact decodeRow_encodeXY _ x y _
  | skp x | sknp x =>
    exact decodeRow_encodeXK (row := decodeKey) (fun _ _ _ => rfl) x _
  | ldVxDT x | ldVxK x | ldDTVx x | ldSTVx x | addIVx x | ldFVx x | ldBVx x | ldMemVx x | ldVxMem x =>
    exact decodeRow_encodeXK (row := decodeMisc) (fun _ _ _ => rfl) x _

/-- Settles O1: the word of an instruction is of its row, and the mode knows the instruction. -/
theorem decodeOfEncodeIsTheInstruction : Obligations.DecodeOfEncodeIsTheInstruction :=
  fun _ i hwf => decode_eq_ok_iff.2 ⟨decodeRow_encode i, hwf⟩

/-! ## What was decoded, encoded again -/

/-- Format A of three nibbles. -/
theorem encodeA_append (op b c d : Nibble) : encodeA op (b ++ c ++ d) = joinNibbles op b c d := by
  rw [encodeA, joinNibbles, BitVec.append_assoc, BitVec.append_assoc, BitVec.append_assoc]
  rfl

/-- Format XK of an index and two nibbles. -/
theorem encodeXK_append (op b c d : Nibble) : encodeXK op b.idx (c ++ d) = joinNibbles op b c d :=
  (BitVec.append_assoc (x₁ := op ++ b) (x₂ := c) (x₃ := d)).symm

/-! The rows that a helper of the decoder selects, each with its instruction's word. -/

theorem encode_of_decodeZero {nnn : Addr} {i : Instr} (h : decodeZero nnn = some i) : encode i = encodeA 0x0 nnn := by
  unfold decodeZero at h
  split at h <;> cases h <;> rfl

theorem encode_of_decodeAlu {x y : RegIdx} {d : Nibble} {i : Instr} (h : decodeAlu x y d = some i) :
    encode i = encodeXY 0x8 x y d := by
  unfold decodeAlu at h
  split at h <;> cases h <;> rfl

theorem encode_of_decodeKey {x : RegIdx} {kk : Byte} {i : Instr} (h : decodeKey x kk = some i) :
    encode i = encodeXK 0xE x kk := by
  unfold decodeKey at h
  split at h <;> cases h <;> rfl

theorem encode_of_decodeMisc {x : RegIdx} {kk : Byte} {i : Instr} (h : decodeMisc x kk = some i) :
    encode i = encodeXK 0xF x kk := by
  unfold decodeMisc at h
  split at h <;> cases h <;> rfl

/-- The four nibbles of a word are those of the word of its instruction: none is dropped (R65). -/
theorem encode_of_decodeNibbles {a b c d : Nibble} {i : Instr} (h : decodeNibbles a b c d = some i) :
    encode i = joinNibbles a b c d := by
  unfold decodeNibbles at h
  split at h
  -- the branches of the decoder by format: 00__; A; XK; XY with last nibble 0; 8xy_; Dxyn; Ex__; Fx__; none
  case h_1 => exact (encode_of_decodeZero h).trans (encodeA_append _ b c d)
  case h_2 | h_3 | h_11 | h_12 => cases h; exact encodeA_append _ b c d
  case h_4 | h_5 | h_7 | h_8 | h_13 => cases h; exact encodeXK_append _ b c d
  case h_6 | h_10 =>
    split at h
    next hd => cases h; subst hd; rfl
    next => cases h
  case h_9 => exact encode_of_decodeAlu h
  case h_14 => cases h; rfl
  case h_15 => exact (encode_of_decodeKey h).trans (encodeXK_append _ b c d)
  case h_16 => exact (encode_of_decodeMisc h).trans (encodeXK_append _ b c d)
  case h_17 => cases h

/-- Settles O2: a word is its four nibbles, and they are those of the word of the instruction they stand for. -/
theorem encodeOfDecodeIsTheWord : Obligations.EncodeOfDecodeIsTheWord := by
  intro m w i h
  obtain ⟨hrow, -⟩ := decode_eq_ok_iff.1 h
  rw [encode_of_decodeNibbles hrow, joinNibbles_nibble]

/-! ## The word of every instruction -/

/-- The word the encoder gives is the word of the instruction. -/
theorem isWordOf_encode (i : Instr) : Machine.IsWordOf i (encode i) :=
  ⟨rfl, fun m hwf => decodeOfEncodeIsTheInstruction m i hwf⟩

/-- Settles O4: each word written out is the encoder's, and every decoder reads that one back. -/
theorem everyInstructionHasItsWord : Obligations.EveryInstructionHasItsWord := by
  intro nnn kk x y n
  have word := isWordOf_encode
  exact ⟨⟨word _, word _, word _, word _, word _, word _⟩, ⟨word _, word _, word _, word _, word _⟩,
    ⟨word _, word _, word _, word _, word _, word _, word _, word _, word _, word _, word _, word _⟩,
    ⟨word _, word _, word _, word _, word _, word _, word _, word _, word _, word _, word _⟩⟩

/-- Settles O5: the words are written out, so the decoder is run on them. -/
theorem wordsOfTheMapDecode : Obligations.WordsOfTheMapDecode := by
  unfold Obligations.WordsOfTheMapDecode
  decide

/-! ## The rows of the opcode map -/

/-- Words are equal nibble by nibble (R61). -/
theorem word_eq_iff_nibbles {w v : Word} :
    w = v ↔ nibble 3 w = nibble 3 v ∧ nibble 2 w = nibble 2 v ∧ nibble 1 w = nibble 1 v ∧ nibble 0 w = nibble 0 v := by
  refine ⟨fun h => h ▸ ⟨rfl, rfl, rfl, rfl⟩, fun ⟨h3, h2, h1, h0⟩ => ?_⟩
  rw [← joinNibbles_nibble w, h3, h2, h1, h0, joinNibbles_nibble]

theorem nibble_and (k : Nat) (w v : Word) : nibble k (w &&& v) = nibble k w &&& nibble k v :=
  BitVec.extractLsb'_and

/-- A row is matched nibble by nibble (R64). -/
theorem matchesRow_iff_nibbles {w v mask : Word} :
    matchesRow w (v, mask) = true ↔
      nibble 3 w &&& nibble 3 mask = nibble 3 v ∧ nibble 2 w &&& nibble 2 mask = nibble 2 v ∧
        nibble 1 w &&& nibble 1 mask = nibble 1 v ∧ nibble 0 w &&& nibble 0 mask = nibble 0 v := by
  simp only [matchesRow, beq_iff_eq, word_eq_iff_nibbles, nibble_and]

/-- Every word that matches `row` is an instruction of mode `m`. -/
def RowDecodes (m : BnnnMode) (row : Word × Word) : Prop :=
  ∀ w, matchesRow w row = true → ∃ i, decode m w = .ok i

/-- Four nibbles stand for an instruction of mode `m`. -/
def NibblesDecode (m : BnnnMode) (a b c d : Nibble) : Prop :=
  ∃ i, decodeNibbles a b c d = some i ∧ WellFormed m i = true

/-- A nibble under a full mask is fixed. -/
theorem eq_of_and_F {a b : Nibble} (h : a &&& 0xF#4 = b) : a = b := (Laws.Rows.nibble_and_F a).symm.trans h

theorem exists_decode_of_nibbles {m : BnnnMode} {w : Word}
    (h : NibblesDecode m (nibble 3 w) (nibble 2 w) (nibble 1 w) (nibble 0 w)) : ∃ i, decode m w = .ok i := by
  obtain ⟨i, hrow, hwf⟩ := h
  exact ⟨i, decode_eq_ok_iff.2 ⟨hrow, hwf⟩⟩

section RowsByMask
variable {m : BnnnMode} {v : Word}

/-- A row that fixes the first nibble (formats A, XK, XYN). -/
theorem RowDecodes.op (h : ∀ b c d, NibblesDecode m (nibble 3 v) b c d) : RowDecodes m (v, 0xF000) := by
  intro w hw
  obtain ⟨h3, -, -, -⟩ := matchesRow_iff_nibbles.1 hw
  exact exists_decode_of_nibbles (eq_of_and_F h3 ▸ h _ _ _)

/-- A row that fixes the first and the last nibble (format XY). -/
theorem RowDecodes.xy (h : ∀ b c, NibblesDecode m (nibble 3 v) b c (nibble 0 v)) : RowDecodes m (v, 0xF00F) := by
  intro w hw
  obtain ⟨h3, -, -, h0⟩ := matchesRow_iff_nibbles.1 hw
  exact exists_decode_of_nibbles (eq_of_and_F h3 ▸ eq_of_and_F h0 ▸ h _ _)

/-- A row that fixes all but the second nibble (format X). -/
theorem RowDecodes.x (h : ∀ b, NibblesDecode m (nibble 3 v) b (nibble 1 v) (nibble 0 v)) :
    RowDecodes m (v, 0xF0FF) := by
  intro w hw
  obtain ⟨h3, -, h1, h0⟩ := matchesRow_iff_nibbles.1 hw
  exact exists_decode_of_nibbles (eq_of_and_F h3 ▸ eq_of_and_F h1 ▸ eq_of_and_F h0 ▸ h _)

/-- A row that fixes the whole word. -/
theorem RowDecodes.fixed (h : NibblesDecode m (nibble 3 v) (nibble 2 v) (nibble 1 v) (nibble 0 v)) :
    RowDecodes m (v, 0xFFFF) := by
  intro w hw
  obtain ⟨h3, h2, h1, h0⟩ := matchesRow_iff_nibbles.1 hw
  exact exists_decode_of_nibbles (eq_of_and_F h3 ▸ eq_of_and_F h2 ▸ eq_of_and_F h1 ▸ eq_of_and_F h0 ▸ h)

end RowsByMask

/-- The nibbles a row fixes select an instruction, whatever its free nibbles hold. -/
theorem rowDecodes_opcodeRows (m : BnnnMode) : ∀ row ∈ opcodeRows, RowDecodes m row := by
  simp only [opcodeRows, List.forall_mem_append, List.forall_mem_cons, List.not_mem_nil, false_imp_iff, implies_true,
    and_true, and_assoc]
  refine ⟨.fixed ?_, .fixed ?_, .op ?_, .op ?_, .op ?_, .op ?_,
    .xy ?_, .op ?_, .op ?_, .xy ?_, .xy ?_, .xy ?_,
    .xy ?_, .xy ?_, .xy ?_, .xy ?_, .xy ?_, .xy ?_,
    .xy ?_, .op ?_, .op ?_, .op ?_, .x ?_, .x ?_,
    .x ?_, .x ?_, .x ?_, .x ?_, .x ?_, .x ?_,
    .x ?_, .x ?_, .x ?_⟩ <;>
    intros <;> exact ⟨_, rfl, rfl⟩

/-- Every row of a mode's opcode map stands for instructions of that mode, the optional row too (R67). -/
theorem rowDecodes_rowsOf (m : BnnnMode) : ∀ row ∈ rowsOf m, RowDecodes m row := by
  cases m with
  | illegal => exact rowDecodes_opcodeRows .illegal
  | jumpV0 =>
    exact List.forall_mem_append.2 ⟨rowDecodes_opcodeRows .jumpV0,
      List.forall_mem_singleton.2 (RowDecodes.op fun _ _ _ => ⟨_, rfl, rfl⟩)⟩

open Laws.Rows in
/-- The word of an instruction matches a row, the optional one included. -/
theorem encode_matches_row (i : Instr) : Statement i := by
  cases i
  exacts [cls, ret, jpAddr _, callAddr _, seByte _ _, sneByte _ _, seReg _ _, ldByte _ _, addByte _ _, ldReg _ _,
    orReg _ _, andReg _ _, xorReg _ _, addReg _ _, sub _ _, shr _ _, subn _ _, shl _ _, sneReg _ _, ldIAddr _, rnd _ _,
    drw _ _ _, skp _, sknp _, ldVxDT _, ldVxK _, ldDTVx _, ldSTVx _, addIVx _, ldFVx _, ldBVx _, ldMemVx _, ldVxMem _,
    jpV0 _]

/-- Only `JP V0` has a word of the optional row (R67). -/
theorem eq_jpV0_of_matches {i : Instr} (h : matchesRow (encode i) (0xB000, 0xF000) = true) : ∃ nnn, i = .jpV0 nnn := by
  obtain ⟨h3, -, -, -⟩ := matchesRow_iff_nibbles.1 h
  have hrow := decodeRow_encode i
  rw [decodeRow, eq_of_and_F h3] at hrow
  exact ⟨_, (Option.some.inj hrow).symm⟩

/-- The word of an instruction of mode `m` matches a row of that mode's opcode map. -/
theorem exists_row_of_wellFormed {m : BnnnMode} {i : Instr} (hwf : WellFormed m i = true) :
    ∃ row ∈ rowsOf m, matchesRow (encode i) row = true := by
  obtain ⟨row, hrow, hmatch⟩ := encode_matches_row i
  cases m with
  | jumpV0 => exact ⟨row, hrow, hmatch⟩
  | illegal =>
    rcases List.mem_append.1 hrow with hmap | hoptional
    · exact ⟨row, hmap, hmatch⟩
    · rw [List.mem_singleton.1 hoptional] at hmatch
      obtain ⟨nnn, rfl⟩ := eq_jpV0_of_matches hmatch
      cases hwf

/-- A word is an instruction iff it matches a row. -/
theorem exists_decode_iff {m : BnnnMode} {w : Word} :
    (∃ i, decode m w = .ok i) ↔ ∃ row ∈ rowsOf m, matchesRow w row = true := by
  refine ⟨fun ⟨i, hi⟩ => ?_, fun ⟨row, hrow, hmatch⟩ => rowDecodes_rowsOf m row hrow w hmatch⟩
  rw [← encodeOfDecodeIsTheWord m w i hi]
  exact exists_row_of_wellFormed (decode_eq_ok_iff.1 hi).2

/-- Settles O3: rows and instructions correspond, and the one rejection there is names the word. -/
theorem decodeAcceptsExactlyTheRows : Obligations.DecodeAcceptsExactlyTheRows := by
  refine fun m w => ⟨exists_decode_iff, fun hnone => ?_⟩
  cases hd : decode m w with
  | error r => rw [decode_error hd]
  | ok i =>
    obtain ⟨row, hrow, hmatch⟩ := exists_decode_iff.1 ⟨i, hd⟩
    exact absurd hmatch (by simp [hnone row hrow])

end Sys2Proof
end

section
/-! PROOFS. One CPU cycle in each of its cases (spec/40_flow_control.md R80, R81; spec/44_timer_keypad_instr.md R147), and
the instructions that set `pc` themselves (R82 to R90). -/

namespace Sys2Proof.Machine

/-! ## The cycle, one equation per case -/

/-- Where a cycle is next, taking it off its list changes the owed steps alone (R155). -/
theorem State.popEvent_of_cycle {s : State} (h : s.nextEvent = .cycle) :
    s.popEvent = { s with slots := s.slots.tail } := by
  unfold State.nextEvent at h
  unfold State.popEvent
  split at h
  next hs => rw [hs]; rfl
  next => cases h
  next => split at h <;> cases h

theorem step_of_cycle {s : State} (h : s.nextEvent = .cycle) : step s = cycle s.popEvent := by rw [step, h, runEvent]

theorem cycle_of_not_running {s : State} (h : s.run ≠ .running) : cycle s = .next s := by
  unfold cycle
  split
  next => rfl
  next => rfl
  next hrun => exact absurd hrun h

theorem cycle_of_wait {s : State} {x : RegIdx} (hrun : s.run = .running) (hwait : s.wait = some x) :
    cycle s = waitCycle x s := by
  simp only [cycle, hrun, hwait]

theorem cycle_of_no_wait {s : State} (hrun : s.run = .running) (hwait : s.wait = none) : cycle s = fetchExecute s := by
  simp only [cycle, hrun, hwait]

/-! ## The fetch -/

theorem step_of_atFetch {s : State} (h : s.AtFetch) : step s = fetchExecute s.popEvent := by
  rw [step_of_cycle h.next, cycle_of_no_wait (by simp [h.running]) (by simp [h.noWait])]

theorem fetchExecute_of_decode {s : State} {i : Instr} (hpc : s.pc.toNat ≤ 0xFFE)
    (hdec : decode s.cfg.bnnnMode s.wordAtPc = .ok i) : fetchExecute s = exec i s := by
  rw [fetchExecute, guardRange_ok (.inr (by omega)), execWord, hdec]

theorem fetchExecute_beyond_memory {s : State} (hpc : 0xFFE < s.pc.toNat) :
    fetchExecute s = .next (s.haltedBy
      (.addressOutOfRange s.pc (if s.pc.toNat = 0xFFF then 0x1000 else s.pc.toNat))) := by
  have hlast : s.pc.toNat ≤ 0xFFF ↔ s.pc.toNat = 0xFFF := by omega
  simp only [fetchExecute, guardRange_err (show 2 ≠ 0 by decide) (show 0x1000 < s.pc.toNat + 2 by omega), hlast,
    halt_eq_haltedBy]

theorem State.wordAtPc_popEvent (s : State) : s.popEvent.wordAtPc = s.wordAtPc := by simp [State.wordAtPc]

/-- Settles O6: the fetch reads the same word once the cycle is off its list. -/
theorem stepRunsTheDecodedInstruction : Obligations.StepRunsTheDecodedInstruction := by
  intro s i hfetch hpc hdec
  refine ⟨?_, State.popEvent_of_cycle hfetch.next⟩
  rw [step_of_atFetch hfetch]
  refine fetchExecute_of_decode (by simpa using hpc) ?_
  rw [State.popEvent_cfg, State.wordAtPc_popEvent]
  exact hdec

/-- Settles O8: the range check of the fetch fails before any byte is read. -/
theorem fetchBeyondMemoryHalts : Obligations.FetchBeyondMemoryHalts := by
  intro s hfetch hpc
  have hhalt := fetchExecute_beyond_memory (s := s.popEvent) (by simpa using hpc)
  rwa [State.popEvent_pc, ← step_of_atFetch hfetch] at hhalt

/-- Settles O9: the cycle is taken off its list and then idle. -/
theorem idleCycleChangesNothing : Obligations.IdleCycleChangesNothing := by
  intro s hcycle hrun
  rw [step_of_cycle hcycle, cycle_of_not_running (by simpa using hrun), State.popEvent_of_cycle hcycle]

/-! ## The key wait -/

theorem waitCycle_of_no_edge {s : State} (x : RegIdx) (h : s.edge = none) : waitCycle x s = .next s := by
  simp only [waitCycle, h]

theorem waitCycle_of_edge {s : State} (x : RegIdx) {k : Key} (h : s.edge = some k) :
    waitCycle x s = .next ((s.setReg x (BitVec.ofNat 8 k.val)).setWait none none).toNext := by
  simp only [waitCycle, h]

theorem step_of_wait {s : State} {x : RegIdx} (hcycle : s.nextEvent = .cycle) (hrun : s.run = .running)
    (hwait : s.wait = some x) : step s = waitCycle x s.popEvent := by
  rw [step_of_cycle hcycle, cycle_of_wait (x := x) (by simp [hrun]) (by simp [hwait])]

theorem changesOnly_slots (s : State) (owed : List Slot) : ChangesOnly s { s with slots := owed } [.slots] :=
  fun e he => by
    cases e with
    | slots => simp at he
    | _ => rfl

/-- What delivering a key changes (R147). -/
theorem changesOnly_deliver (s : State) (x : RegIdx) (b : Byte) :
    ChangesOnly s ((s.setReg x b).setWait none none).toNext [.reg x, .wait, .edge, .pc] :=
  ((changesOnly_setReg s x b).trans (changesOnly_setWait _ none none)).toNext

/-- A key code as a byte (R147). -/
theorem toNat_ofNat_key (k : Key) : (BitVec.ofNat 8 k.val).toNat = k.val := by
  have hk := k.isLt
  rw [BitVec.toNat_ofNat]
  omega

/-- Settles O10: the wait cycle without and with a latched edge, on the state the cycle is taken off. -/
theorem keyWaitCycleDeliversTheEdge : Obligations.KeyWaitCycleDeliversTheEdge := by
  intro s x hcycle hrun hwait
  rw [step_of_wait hcycle hrun hwait, State.popEvent_of_cycle hcycle]
  refine ⟨fun hedge => waitCycle_of_no_edge x hedge, fun k hedge => ⟨_, waitCycle_of_edge x hedge, ?_⟩⟩
  have hframe := (changesOnly_slots s s.slots.tail).trans (changesOnly_deliver _ x (BitVec.ofNat 8 k.val))
  refine ⟨?_, rfl, rfl, rfl, rfl, hframe.mono (List.perm_append_comm (l₁ := [Elem.slots])).subset⟩
  rw [State.toNext_reg, State.setWait_reg, State.reg_setReg, if_pos rfl, toNat_ofNat_key]

/-! ## Jumps, calls and returns -/

/-- Settles O15: the address, zero-extended, is the new `pc`. -/
theorem jumpSetsPc : Obligations.JumpSetsPc := fun nnn s => ⟨_, rfl, changesOnly_setPc s _, zext16_toNat nnn⟩

theorem execCallAddr_of_full {s : State} (nnn : Addr) (h : 16 ≤ s.stack.length) :
    exec (.callAddr nnn) s = .next (s.haltedBy (.stackOverflow s.pc)) :=
  if_pos h

/-- Settles O16: the two sides of the depth check. -/
theorem callPushesAndJumps : Obligations.CallPushesAndJumps := fun nnn s =>
  ⟨fun hroom => ⟨_, execCallAddr_of_room nnn hroom, (changesOnly_push s _).trans (changesOnly_setPc _ _), rfl,
    zext16_toNat nnn⟩, execCallAddr_of_full nnn⟩

theorem execRet_of_empty {s : State} (h : s.stack = []) : exec .ret s = .next (s.haltedBy (.stackUnderflow s.pc)) := by
  simp only [exec, execRet, State.top_eq_none.2 h, raise, halt_eq_haltedBy]

/-- Settles O17: the stack with a last entry, and the empty stack. -/
theorem returnPops : Obligations.ReturnPops := by
  refine fun s => ⟨fun a rest hstack => ?_, execRet_of_empty⟩
  refine ⟨_, execRet_of_stack hstack, (changesOnly_dropTop s).trans (changesOnly_setPc _ a), rfl, ?_⟩
  simp [hstack]

/-! ## Skips -/

/-- An instruction that ends in `skipIf` skips exactly where its condition holds (R15, R92). -/
theorem completes_of_skipIf {i : Instr} {s : State} {c : Bool} {p : Prop} [Decidable p]
    (hexec : exec i s = .next (s.skipIf c)) (hc : c = true ↔ p) :
    Completes i s [.pc] fun t => t.pc = if p then s.pc + 4 else s.pc + 2 :=
  ⟨_, hexec, changesOnly_setPc s _, by simp only [State.skipIf_pc, hc]⟩

theorem byte_beq_iff_toNat {a b : Byte} : (a == b) = true ↔ a.toNat = b.toNat := beq_iff_eq.trans BitVec.toNat_inj.symm

theorem byte_bne_iff_toNat {a b : Byte} : (a != b) = true ↔ a.toNat ≠ b.toNat := bne_iff_ne.trans BitVec.toNat_ne

/-- Settles O19: each of the four ends in `skipIf` on its comparison. -/
theorem skipsCompareBytes : Obligations.SkipsCompareBytes := fun _ _ _ _ =>
  ⟨completes_of_skipIf rfl byte_beq_iff_toNat, completes_of_skipIf rfl byte_bne_iff_toNat,
    completes_of_skipIf rfl byte_beq_iff_toNat, completes_of_skipIf rfl byte_bne_iff_toNat⟩

/-! ## The optional jump -/

/-- The sum of `JP V0, addr` fits in 16 bits (R90). -/
theorem toNat_zext16_add_byte (nnn : Addr) (b : Byte) :
    (zext16 nnn + b.zeroExtend 16).toNat = nnn.toNat + b.toNat := by
  have hnnn := nnn.isLt
  have hb := b.isLt
  rw [BitVec.toNat_add, zext16_toNat, BitVec.toNat_setWidth]
  omega

theorem execJpV0_of_illegal {s : State} (nnn : Addr) (h : s.cfg.bnnnMode = .illegal) :
    exec (.jpV0 nnn) s = .next (s.haltedBy (.unknownOpcode s.pc (encode (.jpV0 nnn)))) := by
  simp only [exec, execJpV0, h, raise, halt_eq_haltedBy]

/-- Settles O20: the two modes; in the illegal one the record carries the word of the instruction. -/
theorem jumpV0DependsOnTheMode : Obligations.JumpV0DependsOnTheMode := fun nnn s =>
  ⟨fun hmode => ⟨_, execJpV0_of_jumpV0 nnn hmode, changesOnly_setPc s _, toNat_zext16_add_byte nnn (s.reg 0)⟩,
    execJpV0_of_illegal nnn⟩

end Sys2Proof.Machine
end

section
/-! PROOFS. Register moves, index loads and memory transfers (spec/41_load_move.md R100 to R106): each as the frames of
the updates it consists of and what these leave, and what goes beyond memory as the failed range check. -/

namespace Sys2Proof.Machine

/-! ## Beyond memory -/

/-- A check of the range `base .. base + k` that fails names its lowest offending address (R192, D20). -/
theorem guardRange_of_last_beyond {s : State} {base k : Nat} (h : 0xFFF < base + k) (go : Result) :
    guardRange s base (k + 1) go = .next (s.haltedBy (.addressOutOfRange s.pc (max base 0x1000))) := by
  have hlowest : (if base ≤ 0xFFF then 0x1000 else base) = max base 0x1000 := by split <;> omega
  rw [guardRange_err k.succ_ne_zero (by omega), hlowest, halt_eq_haltedBy]

/-! ## Block load and block store -/

/-- Within memory a block load reads V0..Vx from I on and advances `pc` (R103). -/
theorem execLdVxMem_of_in_range {s : State} {x : RegIdx} (h : s.I.toNat + x.val ≤ 0xFFF) :
    exec (.ldVxMem x) s = .next (s.loadRegs x).toNext :=
  guardRange_ok (.inr (by omega)) _

/-- A block store of V0..Vx changes x + 1 cells (R104). -/
theorem changesOnly_storeBytes_regsUpTo (s : State) (base : Nat) (x : RegIdx) :
    ChangesOnly s (s.storeBytes base (s.regsUpTo x)) (cells base (x.val + 1)) :=
  s.regsUpTo_length x ▸ changesOnly_storeBytes s base (s.regsUpTo x)

/-- Settles O23: the two sides of the range check. -/
theorem blockLoadReadsFromI : Obligations.BlockLoadReadsFromI := fun x s =>
  ⟨fun hin => ⟨_, execLdVxMem_of_in_range hin, (changesOnly_loadRegs s x).toNext,
    fun r hr => (s.reg_loadRegs x r).trans (if_pos hr), rfl⟩, fun hout => guardRange_of_last_beyond hout _⟩

/-- Settles O24: the two sides of the range check. -/
theorem blockStoreWritesAtI : Obligations.BlockStoreWritesAtI := fun x s =>
  ⟨fun hin => ⟨_, execLdMemVx_of_in_range hin, (changesOnly_storeBytes_regsUpTo s _ x).toNext,
    fun _ hr => s.byteAt_storeBytes_regsUpTo _ hr, rfl⟩, fun hout => guardRange_of_last_beyond hout _⟩

/-- Settles O25: the block store keeps I, so the load reads the very cells that were stored. -/
theorem blockLoadReadsBackTheBlockStore : Obligations.BlockLoadReadsBackTheBlockStore := by
  intro x s t u hin hstore hmem hI
  rw [execLdMemVx_of_in_range hin] at hstore
  cases hstore
  have hIs : u.I = s.I := hI
  obtain ⟨v, hload, hframe, hread, -⟩ := (blockLoadReadsFromI x u).1 (hIs ▸ hin)
  refine ⟨v, hload, hframe, fun r hr => ?_⟩
  calc v.reg r = u.byteAt (s.I.toNat + r.val) := hIs ▸ hread r hr
    _ = (s.storeBytes s.I.toNat (s.regsUpTo x)).byteAt (s.I.toNat + r.val) := congrArg (Memory.read · _) hmem
    _ = s.reg r := s.byteAt_storeBytes_regsUpTo _ hr

/-! ## Moves and index loads -/

/-- An instruction that writes one register and goes on (R82, R100). -/
theorem completes_of_setReg {i : Instr} {s : State} {x : RegIdx} {b : Byte}
    (h : exec i s = .next (s.setReg x b).toNext) : Completes i s [.reg x, .pc] fun t => t.reg x = b ∧ t.pc = s.pc + 2 :=
  ⟨_, h, (changesOnly_setReg s x b).toNext, (s.reg_setReg x b x).trans (if_pos rfl), rfl⟩

/-- An instruction that writes I and goes on (R82, R102). -/
theorem completes_of_setI {i : Instr} {s : State} {w : Word} {n : Nat} (h : exec i s = .next (s.setI w).toNext)
    (hw : w.toNat = n) : Completes i s [.I, .pc] fun t => t.I.toNat = n ∧ t.pc = s.pc + 2 :=
  ⟨_, h, (changesOnly_setI s w).toNext, hw, rfl⟩

/-- Settles O21: both write Vx, one the operand, the other the old Vy. -/
theorem movesWriteTheRegister : Obligations.MovesWriteTheRegister := fun _ _ _ _ =>
  ⟨completes_of_setReg rfl, completes_of_setReg rfl⟩

/-- Settles O22: the zero-extended address and the font address of the low nibble. -/
theorem indexLoadsWriteI : Obligations.IndexLoadsWriteI := fun nnn x s =>
  ⟨completes_of_setI rfl (zext16_toNat nnn), completes_of_setI rfl (fontAddr_toNat (lowNibble (s.reg x)))⟩

/-! ## Decimal digits -/

/-- Storing the digits leaves hundreds, tens and ones, each of which fits in its byte (R105). -/
theorem State.toNat_byteAt_storeBytes_bcdDigits (s : State) (base : Nat) (v : Byte) :
    ((s.storeBytes base (bcdDigits v)).byteAt base).toNat = v.toNat / 100 ∧
    ((s.storeBytes base (bcdDigits v)).byteAt (base + 1)).toNat = v.toNat / 10 % 10 ∧
    ((s.storeBytes base (bcdDigits v)).byteAt (base + 2)).toNat = v.toNat % 10 := by
  have hv := v.isLt
  have hstored (k n : Nat) (hk : k < 3) (hdigit : (bcdDigits v)[k] = BitVec.ofNat 8 n) (hn : n < 256) :
      ((s.storeBytes base (bcdDigits v)).byteAt (base + k)).toNat = n := by
    rw [State.byteAt_storeBytes_at hk, hdigit]
    exact Nat.mod_eq_of_lt hn
  exact ⟨hstored 0 _ (by decide) rfl (by omega), hstored 1 _ (by decide) rfl (by omega),
    hstored 2 _ (by decide) rfl (by omega)⟩

/-- Settles O26: the two sides of the range check. -/
theorem bcdStoresTheDigits : Obligations.BcdStoresTheDigits := by
  refine fun x s => ⟨fun hin => ?_, fun hout => guardRange_of_last_beyond hout _⟩
  obtain ⟨hhundreds, htens, hones⟩ := s.toNat_byteAt_storeBytes_bcdDigits s.I.toNat (s.reg x)
  exact ⟨_, guardRange_ok (.inr (by omega)) _, (changesOnly_storeBytes s _ _).toNext, hhundreds, htens, hones, rfl⟩

end Sys2Proof.Machine
end

section
/-! PROOFS. Arithmetic, logic, shifts and random (spec/42_alu.md R110 to R123): what the byte operations and their flags
are as numbers, and each instruction as the one update it ends in. -/

namespace Sys2Proof.Machine

/-! ## Results and flags as numbers -/

/-- The difference modulo 256 (R117, R123). -/
theorem toNat_byte_sub (a b : Byte) : (a - b).toNat = (a.toNat + 256 - b.toNat) % 256 := by
  have hb := b.isLt
  rw [BitVec.toNat_sub]
  omega

/-- Shifting right by one halves (R119). -/
theorem toNat_byte_shiftRight_one (a : Byte) : (a >>> 1).toNat = a.toNat / 2 := by
  rw [BitVec.toNat_ushiftRight, Nat.shiftRight_one]

/-- Shifting left by one doubles modulo 256 (R120). -/
theorem toNat_byte_shiftLeft_one (a : Byte) : (a <<< 1).toNat = a.toNat * 2 % 256 := by
  rw [BitVec.toNat_shiftLeft, Nat.shiftLeft_eq]

theorem toNat_flagByte_carryOut (a b : Byte) :
    (flagByte (carryOut a b)).toNat = if 255 < a.toNat + b.toNat then 1 else 0 := by
  simp only [flagByte_toNat, carryOut, decide_eq_true_eq]

theorem toNat_flagByte_noBorrow (a b : Byte) :
    (flagByte (noBorrow a b)).toNat = if b.toNat ≤ a.toNat then 1 else 0 := by
  simp only [flagByte_toNat, noBorrow, decide_eq_true_eq]

/-- A bit written as a flag is that binary digit of the byte. -/
theorem toNat_flagByte_getLsbD (a : Byte) (k : Nat) : (flagByte (a.getLsbD k)).toNat = a.toNat / 2 ^ k % 2 := by
  rw [flagByte_toNat, BitVec.getLsbD, ← Nat.toNat_testBit]
  cases a.toNat.testBit k <;> rfl

theorem toNat_flagByte_bitOutRight (a : Byte) : (flagByte (bitOutRight a)).toNat = a.toNat % 2 := by
  rw [bitOutRight, toNat_flagByte_getLsbD, Nat.pow_zero, Nat.div_one]

theorem toNat_flagByte_bitOutLeft (a : Byte) : (flagByte (bitOutLeft a)).toNat = a.toNat / 128 := by
  have ha := a.isLt
  rw [bitOutLeft, toNat_flagByte_getLsbD]
  omega

/-! ## Results without a flag -/

theorem Completes.imp {i : Instr} {s : State} {w : List Elem} {post post' : State → Prop} (h : Completes i s w post)
    (himp : ∀ t, post t → post' t) : Completes i s w post' :=
  have ⟨t, hexec, hframe, hpost⟩ := h
  ⟨t, hexec, hframe, himp t hpost⟩

/-- Settles O28: the sum is written to Vx and nowhere else. -/
theorem addByteWraps : Obligations.AddByteWraps := fun x kk s =>
  (completes_of_setReg rfl).imp fun _ ⟨hreg, hpc⟩ => ⟨hreg ▸ BitVec.toNat_add (s.reg x) kk, hpc⟩

/-- An instruction that writes to one register a byte given bit by bit, and goes on (R82, R114). -/
theorem completes_bitwise_of_setReg {i : Instr} {s : State} {x : RegIdx} {b : Byte} {bit : Nat → Bool}
    (h : exec i s = .next (s.setReg x b).toNext) (hb : ∀ k, b.getLsbD k = bit k) :
    Completes i s [.reg x, .pc] fun t => t.pc = s.pc + 2 ∧ ∀ k < 8, (t.reg x).getLsbD k = bit k :=
  (completes_of_setReg h).imp fun _ ⟨hreg, hpc⟩ => ⟨hpc, fun k _ => hreg ▸ hb k⟩

/-- Settles O32: each operation on bytes is that operation on every bit. -/
theorem logicCombinesBitwise : Obligations.LogicCombinesBitwise := fun _ _ _ =>
  ⟨completes_bitwise_of_setReg rfl fun _ => BitVec.getLsbD_or,
    completes_bitwise_of_setReg rfl fun _ => BitVec.getLsbD_and,
    completes_bitwise_of_setReg rfl fun _ => BitVec.getLsbD_xor⟩

/-- Settles O33: a sum reduced modulo 0x1000 fits in the 16 bits of I. -/
theorem addIndexWrapsInTwelveBits : Obligations.AddIndexWrapsInTwelveBits := fun x s => by
  refine completes_of_setI rfl ?_
  rw [BitVec.toNat_ofNat]
  omega

/-! ## Results with a flag -/

/-- An instruction that writes a flag to VF, then its result to Vx, and goes on (R82, R110). -/
theorem completes_of_setFlagThen {i : Instr} {s : State} {x : RegIdx} {f : Bool} {b : Byte} {result flag : Nat}
    (h : exec i s = .next (s.setFlagThen x f b).toNext) (hb : b.toNat = result) (hf : (flagByte f).toNat = flag) :
    Completes i s [.reg x, .reg VF, .pc] fun t =>
      (t.reg x).toNat = result ∧ (x ≠ VF → (t.reg VF).toNat = flag) ∧ t.pc = s.pc + 2 := by
  refine ⟨_, h, (changesOnly_setFlagThen s x f b).toNext, ?_, fun hx => ?_, rfl⟩
  · rw [State.toNext_reg, State.reg_setFlagThen, if_pos rfl, hb]
  · rw [State.toNext_reg, State.reg_VF_setFlagThen s hx, hf]

/-- Settles O29: the sum and its carry. -/
theorem addWritesSumAndCarry : Obligations.AddWritesSumAndCarry := fun _ _ _ =>
  completes_of_setFlagThen rfl (BitVec.toNat_add _ _) (toNat_flagByte_carryOut _ _)

/-- Settles O30: the difference and its no-borrow flag, the operands exchanged for SUBN. -/
theorem subtractsWriteDifferenceAndNoBorrow : Obligations.SubtractsWriteDifferenceAndNoBorrow := fun _ _ _ =>
  ⟨completes_of_setFlagThen rfl (toNat_byte_sub _ _) (toNat_flagByte_noBorrow _ _),
    completes_of_setFlagThen rfl (toNat_byte_sub _ _) (toNat_flagByte_noBorrow _ _)⟩

/-- Settles O31: half or double of Vx, and its lowest or highest bit. -/
theorem shiftsWriteResultAndBitOut : Obligations.ShiftsWriteResultAndBitOut := fun _ _ _ =>
  ⟨completes_of_setFlagThen rfl (toNat_byte_shiftRight_one _) (toNat_flagByte_bitOutRight _),
    completes_of_setFlagThen rfl (toNat_byte_shiftLeft_one _) (toNat_flagByte_bitOutLeft _)⟩

/-! ## The random byte -/

/-- A mask clears every bit that is 0 in it (R122). -/
theorem getLsbD_and_of_mask_false (a : Byte) {kk : Byte} {k : Nat} (h : kk.getLsbD k = false) :
    (a &&& kk).getLsbD k = false := by
  rw [BitVec.getLsbD_and, h, Bool.and_false]

/-- What `RND` leaves (R121, R122). -/
theorem completes_rnd (x : RegIdx) (kk : Byte) (s : State) : Completes (.rnd x kk) s [.reg x, .draws, .pc] fun t =>
    t.reg x = Config.randomByte s.draws &&& kk ∧ t.draws = s.draws + 1 ∧ t.pc = s.pc + 2 := by
  obtain ⟨t, hexec, hframe⟩ := instructionsChangeOnlyTheirFootprint (.rnd x kk) s rfl
  refine ⟨t, hexec, hframe, ?_⟩
  cases hexec
  exact ⟨(s.consumeByte.reg_setReg x _ x).trans (if_pos rfl), rfl, rfl⟩

/-- Settles O34: Vx is the masked byte, and the two masking laws hold whatever byte was drawn. -/
theorem randomMasksTheDrawnByte : Obligations.RandomMasksTheDrawnByte := fun x kk s =>
  (completes_rnd x kk s).imp fun _ ⟨hreg, hdraws, hpc⟩ =>
    ⟨hreg, hdraws, hpc, fun _ _ hbit => hreg ▸ getLsbD_and_of_mask_false _ hbit,
      fun hzero => by rw [hreg, hzero]; exact BitVec.and_zero⟩

end Sys2Proof.Machine
end

section
/-! PROOFS. The display (spec/43_display_blitter.md R131 to R136): where a sprite bit lands, read backwards from the
pixel; from it that no pixel of a blit comes twice, what a drawing leaves, and what drawing again leaves. -/

namespace Sys2Proof.Machine

/-! ## Which sprite bit lands on a pixel -/

/-- Within one turn of either axis a pixel lies in one sprite row and one sprite column: its distances from the origin,
counted with wrap (R134). -/
theorem eq_spritePixel_iff {x0 y0 r c : Nat} {px : Fin 64} {py : Fin 32} (hr : r < 32) (hc : c < 64) :
    (px, py) = spritePixel x0 y0 r c ↔
      (py.val + 32 - y0 % 32) % 32 = r ∧ (px.val + 64 - x0 % 64) % 64 = c := by
  have hpx := px.isLt
  have hpy := py.isLt
  simp only [spritePixel, Prod.mk.injEq, Fin.ext_iff]
  omega

theorem spritePixel_inj {x0 y0 r r' c c' : Nat} (hr : r < 32) (hr' : r' < 32) (hc : c < 64) (hc' : c' < 64)
    (h : spritePixel x0 y0 r c = spritePixel x0 y0 r' c') : r = r' ∧ c = c' := by
  obtain ⟨hrow, hcol⟩ := (eq_spritePixel_iff hr hc).1 (Eq.refl (spritePixel x0 y0 r c))
  obtain ⟨hrow', hcol'⟩ := (eq_spritePixel_iff hr' hc').1 h
  exact ⟨hrow.symm.trans hrow', hcol.symm.trans hcol'⟩

/-- The sprite paints a pixel exactly where one of its 1 bits lands (R131, R134). -/
theorem spriteBit_iff {s : State} {x y : RegIdx} {n : Fin 16} {px : Fin 64} {py : Fin 32} :
    spriteBit s x y n px py = true ↔ ∃ k < n.val, ∃ c < 8, (s.byteAt (s.I.toNat + k)).getLsbD (7 - c) = true ∧
      (px, py) = spritePixel (originX (s.reg x)) (originY (s.reg y)) k c := by
  have hn := n.isLt
  simp only [spriteBit, Bool.and_eq_true, decide_eq_true_eq]
  constructor
  · rintro ⟨⟨hrow, hcol⟩, hbit⟩
    refine ⟨_, hrow, _, hcol, hbit, (eq_spritePixel_iff (by omega) (by omega)).2 ⟨?_, ?_⟩⟩
    · rw [originY, Nat.mod_mod]
    · rw [originX, Nat.mod_mod]
  · rintro ⟨k, hk, c, hc, hbit, hp⟩
    obtain ⟨hrow, hcol⟩ := (eq_spritePixel_iff (by omega) (by omega)).1 hp
    rw [originY, Nat.mod_mod] at hrow
    rw [originX, Nat.mod_mod] at hcol
    rw [hrow, hcol]
    exact ⟨⟨hk, hc⟩, hbit⟩

/-- The pixels `DRW` toggles are those its sprite paints (R133, R134). -/
theorem mem_spritePixels_spriteRows {s : State} {x y : RegIdx} {n : Fin 16} {px : Fin 64} {py : Fin 32} :
    (px, py) ∈ spritePixels (originX (s.reg x)) (originY (s.reg y)) 0 (s.spriteRows n) ↔
      spriteBit s x y n px py = true := by
  rw [mem_spritePixels, spriteBit_iff]
  simp only [State.spriteRows, State.bytesAt_getElem?, Nat.zero_add]
  constructor
  · rintro ⟨k, row, hrow, hbits⟩
    split at hrow
    next hk => cases hrow; exact ⟨k, hk, hbits⟩
    next => cases hrow
  · rintro ⟨k, hk, hbits⟩
    exact ⟨k, _, if_pos hk, hbits⟩

/-- What the sprite paints depends on its bytes and its origin alone (R133). -/
theorem spriteBit_congr {s u : State} {x y : RegIdx} {n : Fin 16} (hI : u.I = s.I)
    (hbytes : ∀ a, u.byteAt a = s.byteAt a) (hx : (u.reg x).toNat % 64 = (s.reg x).toNat % 64)
    (hy : (u.reg y).toNat % 32 = (s.reg y).toNat % 32) (px : Fin 64) (py : Fin 32) :
    spriteBit u x y n px py = spriteBit s x y n px py := by
  simp only [spriteBit, hI, hbytes, hx, hy]

/-- A byte other than 0 has a 1 bit, counted from the left as a sprite's columns are (R131). -/
theorem byte_ne_zero_iff_exists_column {b : Byte} : b ≠ 0 ↔ ∃ c < 8, b.getLsbD (7 - c) = true := by
  constructor
  · intro hb
    by_contra hnone
    push Not at hnone
    refine hb (BitVec.eq_of_getLsbD_eq fun i hi => ?_)
    have hbit := hnone (7 - i) (by omega)
    rw [Nat.sub_sub_self (Nat.le_of_lt_succ hi)] at hbit
    simpa using hbit
  · rintro ⟨c, -, hbit⟩ rfl
    simp at hbit

/-- A sprite paints something unless all its bytes are 0. -/
theorem exists_spriteBit_iff {s : State} {x y : RegIdx} {n : Fin 16} :
    (∃ px py, spriteBit s x y n px py = true) ↔ ∃ r < n.val, s.byteAt (s.I.toNat + r) ≠ 0 := by
  simp only [spriteBit_iff, byte_ne_zero_iff_exists_column]
  constructor
  · rintro ⟨px, py, k, hk, c, hc, hbit, -⟩
    exact ⟨k, hk, c, hc, hbit⟩
  · rintro ⟨k, hk, c, hc, hbit⟩
    exact ⟨_, _, k, hk, c, hc, hbit, rfl⟩

/-! ## No pixel comes twice -/

theorem nodup_rowPixels {x0 y0 r : Nat} (row : Byte) (hr : r < 32) : (rowPixels x0 y0 r row).Nodup := by
  refine List.Nodup.map_on (fun c hc c' hc' h => ?_) (List.nodup_range.filter _)
  have hcol := List.mem_range.1 (List.mem_of_mem_filter hc)
  have hcol' := List.mem_range.1 (List.mem_of_mem_filter hc')
  exact (spritePixel_inj hr hr (by omega) (by omega) h).2

/-- Rows that go at most once round the buffer share no pixel (R136). -/
theorem nodup_spritePixels {x0 y0 r : Nat} {rows : List Byte} (h : r + rows.length ≤ 32) :
    (spritePixels x0 y0 r rows).Nodup := by
  induction rows generalizing r with
  | nil => exact List.nodup_nil
  | cons row rows ih =>
    rw [List.length_cons] at h
    refine List.nodup_append'.2 ⟨nodup_rowPixels row (by omega), ih (by omega), fun p hfirst hlater => ?_⟩
    obtain ⟨c, hc, -, rfl⟩ := mem_rowPixels.1 hfirst
    obtain ⟨k, row', hk, c', hc', -, hp⟩ := mem_spritePixels.1 hlater
    have hkrows := (List.getElem?_eq_some_iff.1 hk).1
    have hrow := (spritePixel_inj (by omega) (by omega) (by omega) (by omega) hp).1
    omega

/-- Settles O38: 15 rows do not go once round the 32 rows of the buffer. -/
theorem spritePixelsAreDistinct : Obligations.SpritePixelsAreDistinct := fun _ _ _ hrows =>
  nodup_spritePixels (by omega)

/-! ## Drawing -/

theorem nodup_spritePixels_spriteRows (s : State) (x0 y0 : Nat) (n : Fin 16) :
    (spritePixels x0 y0 0 (s.spriteRows n)).Nodup :=
  nodup_spritePixels (by rw [State.spriteRows, State.bytesAt_length]; omega)

/-- Drawing XORs the sprite onto the buffer (R134). -/
theorem State.pixel_draw (s : State) (x y : RegIdx) (n : Fin 16) (px : Fin 64) (py : Fin 32) :
    (s.draw x y n).fb.pixel px py = (s.fb.pixel px py != spriteBit s x y n px py) := by
  rw [State.fb_draw, blit, blitPixels_pixel _ _ _ (nodup_spritePixels_spriteRows s _ _ n), Bool.bne_eq_xor]
  simp only [mem_spritePixels_spriteRows, Bool.decide_eq_true]

theorem flagByte_eq_one_iff {b : Bool} : flagByte b = 1 ↔ b = true := by cases b <;> decide

/-- Drawing sets VF exactly where the sprite paints a pixel that was on (R135). -/
theorem State.reg_VF_draw_eq_one_iff (s : State) (x y : RegIdx) (n : Fin 16) :
    (s.draw x y n).reg VF = 1 ↔ ∃ px py, s.fb.pixel px py = true ∧ spriteBit s x y n px py = true := by
  rw [State.reg_draw, if_pos rfl, flagByte_eq_one_iff, blit,
    blitPixels_hit _ _ _ (nodup_spritePixels_spriteRows s _ _ n), Bool.false_or, List.any_eq_true, Prod.exists]
  simp only [mem_spritePixels_spriteRows, and_comm]

/-- A pixel that was on goes off exactly where the sprite paints it (R135). -/
theorem State.goes_off_iff (s : State) (x y : RegIdx) (n : Fin 16) (px : Fin 64) (py : Fin 32) :
    (s.fb.pixel px py = true ∧ (s.draw x y n).fb.pixel px py = false) ↔
      (s.fb.pixel px py = true ∧ spriteBit s x y n px py = true) :=
  and_congr_right fun hon => by rw [State.pixel_draw, hon, Bool.true_bne, Bool.not_eq_false']

/-- Settles O36: within memory the range check passes, and a pixel goes off where the sprite paints one that was on. -/
theorem drawXorsTheSpriteWithWrap : Obligations.DrawXorsTheSpriteWithWrap := by
  intro x y n s hrange
  refine ⟨_, guardRange_ok hrange _, (changesOnly_draw s x y n).toNext, rfl, s.pixel_draw x y n, ?_, ?_⟩
  · rw [State.toNext_reg, State.reg_draw, if_pos rfl, flagByte_toNat]
    split <;> decide
  · rw [State.toNext_reg, State.toNext_fb, State.reg_VF_draw_eq_one_iff]
    exact exists_congr fun px => exists_congr fun py => (s.goes_off_iff x y n px py).symm

/-- Settles O37: XOR with the same sprite twice is the identity, so the pixels that go off in the second drawing are
those that came on in the first: all that the sprite paints, when none went off. -/
theorem drawingTwiceRestores : Obligations.DrawingTwiceRestores := by
  intro x y n s t u hrange hexec hfb hI hbytes hx hy
  obtain ⟨t', hexec', -, -, hfirst, -, hcollided⟩ := drawXorsTheSpriteWithWrap x y n s hrange
  cases hexec.symm.trans hexec'
  obtain ⟨v, hexecv, hframe, -, hsecond, -, hcollidedAgain⟩ := drawXorsTheSpriteWithWrap x y n u (hI ▸ hrange)
  have hrestored : v.fb = s.fb := DisplayBuffer.ext_pixel fun px py => by
    rw [hsecond, hfb, hfirst, spriteBit_congr hI hbytes hx hy, Bool.bne_assoc, bne_self_eq_false,
      Bool.bne_false]
  refine ⟨v, hexecv, hframe, hrestored, fun hzero => ?_⟩
  have hnone : ¬∃ px py, s.fb.pixel px py = true ∧ t.fb.pixel px py = false := by
    rw [← hcollided, hzero]; decide
  rw [hcollidedAgain, hrestored, hfb, ← exists_spriteBit_iff (x := x) (y := y)]
  refine exists_congr fun px => exists_congr fun py => ?_
  have hstays : ¬(s.fb.pixel px py = true ∧ t.fb.pixel px py = false) := fun h => hnone ⟨px, py, h⟩
  rw [hfirst] at hstays ⊢
  cases hold : s.fb.pixel px py with
  | false => simp
  | true => simpa [hold] using hstays

/-! ## Clearing -/

/-- Settles O35: the new buffer is the one with all pixels off. -/
theorem clearTurnsEveryPixelOff : Obligations.ClearTurnsEveryPixelOff := fun s =>
  ⟨_, rfl, (changesOnly_setFb s _).toNext, DisplayBuffer.pixel_allOff, rfl⟩

end Sys2Proof.Machine
end

section
/-! PROOFS. Timers and keypad (spec/44_timer_keypad_instr.md R140 to R146, spec/45_timers_clock.md R148 to R151,
spec/46_host_interface.md R175): the instructions on them, the owed tick, and what a key event does. -/

namespace Sys2Proof.Machine

/-! ## The timers -/

/-- The level of the sound output, on a block that is not Uninitialized (R151, R177). -/
theorem State.soundActive_iff {s : State} (h : s.run ≠ .uninitialized) : s.soundActive = true ↔ 0 < s.ST.toNat := by
  unfold State.soundActive
  split
  next hrun => exact absurd hrun h
  all_goals exact decide_eq_true_iff

/-- Settles O39: each writes one register or timer and goes on; the sound output follows what `ST` then holds. -/
theorem timerInstructionsMoveTheTimers : Obligations.TimerInstructionsMoveTheTimers := fun x s =>
  ⟨completes_of_setReg rfl,
    ⟨_, rfl, (changesOnly_setDT s _).toNext, rfl, rfl⟩,
    ⟨_, rfl, (changesOnly_setST s _).toNext, rfl, rfl,
      State.soundActive_iff (s := (s.setST (s.reg x)).toNext)⟩⟩

/-- Settles O48: the step is the tick of the state the slot was taken off, whatever its `run` and `wait`. -/
theorem owedTickRunsInEveryState : Obligations.OwedTickRunsInEveryState := fun s rest h =>
  have hframe := (changesOnly_slots s rest).trans (changesOnly_tick _)
  ⟨_, step_of_owed_tick h, rfl, countDown_toNat s.DT, countDown_toNat s.ST, hframe.mono (by decide)⟩

/-! ## The keypad instructions -/

/-- The key an instruction tests is that of the low nibble of its register (R143, R144; D9). -/
theorem State.keyDown_eq {s : State} {x : RegIdx} {k : Key} (h : k.val = (s.reg x).toNat % 16) :
    s.keyDown x = s.keys[k] := by
  obtain rfl : k = lowNibble (s.reg x) := Fin.ext h
  rfl

/-- Settles O40: both end in `skipIf`, on the level of the key and on its opposite. -/
theorem keySkipsTestTheLevel : Obligations.KeySkipsTestTheLevel := fun x k s h =>
  ⟨completes_of_skipIf rfl (by rw [State.keyDown_eq h]),
    completes_of_skipIf rfl (by rw [State.keyDown_eq h, Bool.not_eq_true'])⟩

/-- Settles O41: the instruction is one update of `wait` and `edge`. -/
theorem loadKeyEntersTheWait : Obligations.LoadKeyEntersTheWait := fun _ s =>
  ⟨_, rfl, changesOnly_setWait s _ _, rfl, rfl⟩

/-! ## Key events -/

/-- A key event on an Uninitialized block has no effect (R175, D27). -/
theorem State.setKey_of_uninitialized {s : State} (h : s.run = .uninitialized) (k : Key) (p : Bool) :
    s.setKey k p = s := by
  simp only [State.setKey, h]

/-- A key event on any other block is the latch and the level (R175). -/
theorem State.setKey_of_initialized {s : State} (h : s.run ≠ .uninitialized) (k : Key) (p : Bool) :
    s.setKey k p = { s with edge := s.latch k p, keys := s.keys.set k p } := by
  unfold State.setKey
  split
  next hrun => exact absurd hrun h
  all_goals rfl

/-- Settles O53: the two equations of `setKey`, and its frame. -/
theorem setKeyLatchesThenSets : Obligations.SetKeyLatchesThenSets := by
  intro s k p
  refine ⟨fun h => State.setKey_of_uninitialized h k p, fun h => ⟨fun j => ?_, ?_, changesOnly_setKey s k p⟩⟩
  · rw [State.setKey_of_initialized h]
    simp only [Fin.getElem_fin, Vector.getElem_set, Fin.ext_iff, eq_comm]
  · rw [State.setKey_of_initialized h]
    simp only [State.latch, Option.isSome_iff_ne_none]

/-- With an edge latched, a key event latches none (R146, D10). -/
theorem State.edge_setKey_of_latched {s : State} {k : Key} (h : s.edge = some k) (code : Key) (p : Bool) :
    (s.setKey code p).edge = some k := by
  by_cases hrun : s.run = .uninitialized
  · rw [State.setKey_of_uninitialized hrun, h]
  · obtain ⟨-, hedge, -⟩ := (setKeyLatchesThenSets s code p).2 hrun
    have hstale : ¬s.edge = none := by rw [h]; exact Option.some_ne_none k
    rw [hedge, if_neg fun ⟨_, _, _, hnone⟩ => hstale hnone, h]

theorem State.wait_setKey (s : State) (code : Key) (p : Bool) : (s.setKey code p).wait = s.wait :=
  changesOnly_setKey s code p .wait (by decide)

/-- Settles O54: induction over the events, each of which keeps the latched edge and the wait. -/
theorem firstEdgeWins : Obligations.FirstEdgeWins := by
  intro s k events hedge
  induction events generalizing s with
  | nil => exact ⟨hedge, rfl⟩
  | cons event events ih =>
    obtain ⟨hlatched, hwait⟩ := ih _ (State.edge_setKey_of_latched hedge event.1 event.2)
    exact ⟨hlatched, hwait.trans (s.wait_setKey event.1 event.2)⟩

end Sys2Proof.Machine
end

section
/-! PROOFS. The timers over time and the clock (spec/45_timers_clock.md R150 to R156): n ticks in a row, what `advance`
owes, and the order it sets the owed steps out in. -/

namespace Sys2Proof.Machine

/-! ## Ticks in a row -/

/-- Settles O43: induction on the number of ticks, each of which counts both timers down (R150). -/
theorem ticksCountDownToZero : Obligations.TicksCountDownToZero := by
  intro n s
  induction n with
  | zero => exact ⟨rfl, rfl, ChangesOnly.refl s _⟩
  | succ n ih =>
    obtain ⟨hDT, hST, hframe⟩ := ih
    rw [Function.iterate_succ_apply']
    refine ⟨?_, ?_, (hframe.trans (changesOnly_tick _)).mono (by decide)⟩
    · rw [State.tick_DT, countDown_toNat, hDT, Nat.sub_sub]
    · rw [State.tick_ST, countDown_toNat, hST, Nat.sub_sub]

/-- Settles O44: the output is the level of `ST`, which the ticks have counted down; they leave `run` alone. -/
theorem soundLastsAsManyTicks : Obligations.SoundLastsAsManyTicks := by
  intro n s hrun
  obtain ⟨-, hST, hframe⟩ := ticksCountDownToZero n s
  have hrunSame : (tick^[n] s).run = s.run := hframe .run (by decide)
  rw [State.soundActive_iff (hrunSame ▸ hrun), hST, Nat.sub_pos_iff_lt]

/-! ## What one `advance` call does (R154, R156) -/

theorem State.advance_of_uninitialized {s : State} (h : s.run = .uninitialized) (dt : Nat) : s.advance dt = s := by
  simp only [State.advance, h]

theorem State.advance_of_initialized {s : State} (h : s.run ≠ .uninitialized) (dt : Nat) :
    s.advance dt =
      { s with
        cpuAcc := owedRest s.cpuAcc dt s.cfg.cpuHz s.cfg.units
        tmrAcc := owedRest s.tmrAcc dt timerHz s.cfg.units
        slots := schedule s.cfg s.cpuAcc s.tmrAcc (owedCount s.cpuAcc dt s.cfg.cpuHz s.cfg.units)
          (owedCount s.tmrAcc dt timerHz s.cfg.units) } := by
  unfold State.advance
  split
  next hrun => exact absurd hrun h
  all_goals rfl

/-! ## The merge of cycles and ticks (R155) -/

section Merge

variable {c : Config} {c0 t0 nC nT fuel k j : Nat}

/-- The guard of the loop of R155: with cycle `k` and tick `j` next, the tick runs. -/
def TickNext (c : Config) (c0 t0 nC nT k j : Nat) : Prop := j ≤ nT ∧ (nC < k ∨ tickFirst c c0 t0 k j = true)

theorem mergeFrom_of_tickNext (h : TickNext c c0 t0 nC nT k j) :
    mergeFrom c c0 t0 nC nT (fuel + 1) k j = .tick :: mergeFrom c c0 t0 nC nT fuel k (j + 1) := if_pos h

theorem mergeFrom_of_not_tickNext (h : ¬TickNext c c0 t0 nC nT k j) :
    mergeFrom c c0 t0 nC nT (fuel + 1) k j = .cycle :: mergeFrom c c0 t0 nC nT fuel (k + 1) j := if_neg h

theorem tickFirst_iff :
    tickFirst c c0 t0 k j = true ↔ (j * c.units - t0) * c.cpuHz ≤ (k * c.units - c0) * 60 := decide_eq_true_iff

/-- While steps are left and the tick does not run, cycles are left. -/
theorem le_of_not_tickNext (hleft : fuel + 1 + k + j = nC + nT + 2) (h : ¬TickNext c c0 t0 nC nT k j) : k ≤ nC := by
  by_contra hk
  exact h ⟨by omega, .inl (by omega)⟩

/-- From cycle `k` and tick `j` on, the merge holds each cycle and each tick left once. -/
theorem mergeFrom_counts (hk : k ≤ nC + 1) (hj : j ≤ nT + 1) (hleft : fuel + k + j = nC + nT + 2) :
    (mergeFrom c c0 t0 nC nT fuel k j).count .cycle + k = nC + 1 ∧
      (mergeFrom c c0 t0 nC nT fuel k j).count .tick + j = nT + 1 := by
  induction fuel generalizing k j with
  | zero => simp only [mergeFrom, List.count_nil]; omega
  | succ fuel ih =>
    by_cases h : TickNext c c0 t0 nC nT k j
    · have hrest := ih (j := j + 1) hk (Nat.succ_le_succ h.1) (by omega)
      simp only [mergeFrom_of_tickNext h, List.count_cons_self, List.count_cons_of_ne (show Slot.tick ≠ .cycle by decide)]
      omega
    · have hrest := ih (k := k + 1) (Nat.succ_le_succ (le_of_not_tickNext hleft h)) hj (by omega)
      simp only [mergeFrom_of_not_tickNext h, List.count_cons_self,
        List.count_cons_of_ne (show Slot.cycle ≠ .tick by decide)]
      omega

theorem schedule_counts (c : Config) (c0 t0 nC nT : Nat) :
    (schedule c c0 t0 nC nT).count .cycle = nC ∧ (schedule c c0 t0 nC nT).count .tick = nT := by
  have hcounts : (schedule c c0 t0 nC nT).count .cycle + 1 = nC + 1 ∧ (schedule c c0 t0 nC nT).count .tick + 1 = nT + 1 :=
    mergeFrom_counts (by omega) (by omega) (by omega)
  omega

/-- What follows a prefix of a merge is the merge from the cycle and the tick the prefix leaves next. -/
theorem exists_mergeFrom_eq_of_append {before rest : List Slot}
    (h : mergeFrom c c0 t0 nC nT fuel k j = before ++ rest) :
    ∃ fuel', mergeFrom c c0 t0 nC nT fuel' (k + before.count .cycle) (j + before.count .tick) = rest := by
  induction before generalizing fuel k j with
  | nil => exact ⟨fuel, h⟩
  | cons e before ih =>
    cases fuel with
    | zero => cases h
    | succ fuel =>
      by_cases hnext : TickNext c c0 t0 nC nT k j
      · rw [mergeFrom_of_tickNext hnext, List.cons_append, List.cons.injEq] at h
        obtain ⟨rfl, htail⟩ := h
        simpa [Nat.add_assoc, Nat.add_comm 1] using ih htail
      · rw [mergeFrom_of_not_tickNext hnext, List.cons_append, List.cons.injEq] at h
        obtain ⟨rfl, htail⟩ := h
        simpa [Nat.add_assoc, Nat.add_comm 1] using ih htail

/-- A step of a schedule is a tick exactly when the guard of R155 holds at the cycle and the tick then next. -/
theorem schedule_eq_append_cons {before after : List Slot} {e : Slot}
    (h : schedule c c0 t0 nC nT = before ++ e :: after) :
    e = .tick ↔ TickNext c c0 t0 nC nT (before.count .cycle + 1) (before.count .tick + 1) := by
  obtain ⟨fuel, hrest⟩ := exists_mergeFrom_eq_of_append h
  rw [Nat.add_comm 1, Nat.add_comm 1] at hrest
  cases fuel with
  | zero => cases hrest
  | succ fuel =>
    by_cases hnext : TickNext c c0 t0 nC nT (before.count .cycle + 1) (before.count .tick + 1)
    · rw [mergeFrom_of_tickNext hnext, List.cons.injEq] at hrest
      exact iff_of_true hrest.1.symm hnext
    · rw [mergeFrom_of_not_tickNext hnext, List.cons.injEq] at hrest
      exact iff_of_false (hrest.1 ▸ by decide) hnext

/-- In a schedule a tick stands before a later cycle if it is due no later, and a cycle before a later tick if not: a
later step of the other kind says that one is still left. -/
theorem schedule_inDueOrder {before after : List Slot} {e : Slot}
    (h : schedule c c0 t0 nC nT = before ++ e :: after) :
    (e = .tick → after.count .cycle ≠ 0 →
      tickFirst c c0 t0 (before.count .cycle + 1) (before.count .tick + 1) = true) ∧
    (e = .cycle → after.count .tick ≠ 0 →
      ¬tickFirst c c0 t0 (before.count .cycle + 1) (before.count .tick + 1) = true) := by
  have hguard := schedule_eq_append_cons h
  obtain ⟨hcycles, hticks⟩ := schedule_counts c c0 t0 nC nT
  rw [h, List.count_append] at hcycles hticks
  constructor
  · rintro rfl hafter
    obtain ⟨-, hlast | hfirst⟩ := hguard.1 rfl
    · rw [List.count_cons_of_ne (by decide)] at hcycles
      omega
    · exact hfirst
  · rintro rfl hafter hfirst
    rw [List.count_cons_of_ne (by decide)] at hticks
    cases hguard.2 ⟨by omega, .inr hfirst⟩

end Merge

/-- Settles O45: the equations of `advance`, the counts of the merge and the frame of the call. -/
theorem advanceOwesExactly : Obligations.AdvanceOwesExactly := by
  intro s dt
  refine ⟨fun h => State.advance_of_uninitialized h dt, fun h => ?_⟩
  have hframe := changesOnly_advance s dt
  rw [State.advance_of_initialized h] at hframe ⊢
  obtain ⟨hcycles, hticks⟩ := schedule_counts s.cfg s.cpuAcc s.tmrAcc (owedCount s.cpuAcc dt s.cfg.cpuHz s.cfg.units)
    (owedCount s.tmrAcc dt timerHz s.cfg.units)
  exact ⟨hcycles, hticks, rfl, rfl, hframe⟩

/-- Settles O46: the due order of the schedule the call sets out, in due instants. -/
theorem owedStepsComeInDueOrder : Obligations.OwedStepsComeInDueOrder := by
  intro s dt before after e hrun _ _ _ hslots
  rw [State.advance_of_initialized hrun] at hslots
  obtain ⟨htick, hcycle⟩ := schedule_inDueOrder hslots
  exact ⟨fun he hafter => tickFirst_iff.1 (htick he hafter),
    fun he hafter => Nat.lt_of_not_le (mt tickFirst_iff.2 (hcycle he hafter))⟩

/-! ## Slicing time (R154, R155) -/

section Slicing

variable {c : Config} {c0 t0 acc dt rate units nC nT mC mT fuel k j : Nat}

theorem owedCount_add (hU : 0 < units) (a b : Nat) :
    owedCount acc (a + b) rate units = owedCount acc a rate units + owedCount (owedRest acc a rate units) b rate units := by
  unfold owedCount owedRest
  rw [← Nat.mul_add_div hU, ← Nat.add_assoc, Nat.div_add_mod, Nat.add_mul, Nat.add_assoc]

theorem owedRest_add (a b : Nat) :
    owedRest acc (a + b) rate units = owedRest (owedRest acc a rate units) b rate units := by
  unfold owedRest
  rw [Nat.mod_add_mod, Nat.add_mul, Nat.add_assoc]

/-- A step is owed exactly when it falls due within the call. -/
theorem le_owedCount_iff (hU : 0 < units) : k ≤ owedCount acc dt rate units ↔ k * units - acc ≤ dt * rate :=
  (Nat.le_div_iff_mul_le hU).trans Nat.sub_le_iff_le_add'.symm

/-- Measured from the start of a call, the `k`-th step after it is due `dt` later than measured from its end. -/
theorem due_owedCount_add (hU : 0 < units) (hk : 0 < k) :
    (owedCount acc dt rate units + k) * units - acc = k * units - owedRest acc dt rate units + dt * rate := by
  have hdiv : owedCount acc dt rate units * units + owedRest acc dt rate units = acc + dt * rate :=
    Nat.div_add_mod' _ _
  have hrest : owedRest acc dt rate units < units := Nat.mod_lt _ hU
  have hunits : units ≤ k * units := Nat.le_mul_of_pos_left _ hk
  rw [Nat.add_mul]
  omega

/-- After a call the order of a cycle and a tick is the one they had before it. -/
theorem tickFirst_owedRest (hU : 0 < c.units) (c0 t0 dt : Nat) (hk : 0 < k) (hj : 0 < j) :
    tickFirst c (owedRest c0 dt c.cpuHz c.units) (owedRest t0 dt timerHz c.units) k j =
      tickFirst c c0 t0 (owedCount c0 dt c.cpuHz c.units + k) (owedCount t0 dt timerHz c.units + j) := by
  unfold tickFirst
  rw [due_owedCount_add hU hk, due_owedCount_add hU hj, Nat.add_mul, Nat.add_mul, Nat.mul_right_comm dt timerHz]
  simp only [Nat.add_le_add_iff_right]

/-- The first `nC` cycles and `nT` ticks go before all others: each tick of them before every later cycle, each cycle of
them before every later tick. -/
def DueFirst (c : Config) (c0 t0 nC nT : Nat) : Prop :=
  (∀ k j, nC < k → j ≤ nT → tickFirst c c0 t0 k j = true) ∧ ∀ k j, k ≤ nC → nT < j → ¬tickFirst c c0 t0 k j = true

/-- The steps a call owes are those due up to its end. -/
theorem dueFirst_owedCount (hcfg : c.Ok) (c0 t0 dt : Nat) :
    DueFirst c c0 t0 (owedCount c0 dt c.cpuHz c.units) (owedCount t0 dt timerHz c.units) := by
  obtain ⟨hHz, hU⟩ := hcfg
  have hsame : dt * timerHz * c.cpuHz = dt * c.cpuHz * timerHz := Nat.mul_right_comm _ _ _
  refine ⟨fun k j hk hj => tickFirst_iff.2 ?_, fun k j hk hj hfirst => ?_⟩
  · have hcycle : dt * c.cpuHz < k * c.units - c0 := Nat.lt_of_not_le (mt (le_owedCount_iff hU).2 (Nat.not_le.2 hk))
    calc (j * c.units - t0) * c.cpuHz
        ≤ dt * timerHz * c.cpuHz := Nat.mul_le_mul_right _ ((le_owedCount_iff hU).1 hj)
      _ = dt * c.cpuHz * timerHz := hsame
      _ ≤ (k * c.units - c0) * timerHz := Nat.mul_le_mul_right _ hcycle.le
  · have htick : dt * timerHz < j * c.units - t0 := Nat.lt_of_not_le (mt (le_owedCount_iff hU).2 (Nat.not_le.2 hj))
    refine absurd (tickFirst_iff.1 hfirst) (Nat.not_le.2 ?_)
    calc (k * c.units - c0) * timerHz
        ≤ dt * c.cpuHz * timerHz := Nat.mul_le_mul_right _ ((le_owedCount_iff hU).1 hk)
      _ = dt * timerHz * c.cpuHz := hsame.symm
      _ < (j * c.units - t0) * c.cpuHz := Nat.mul_lt_mul_of_pos_right htick hHz

/-- Steps that are all due first are merged first, as if no more were owed. -/
theorem mergeFrom_append (hdue : DueFirst c c0 t0 nC nT) (more : Nat) (hk : k ≤ nC + 1) (hj : j ≤ nT + 1)
    (hleft : fuel + k + j = nC + nT + 2) :
    mergeFrom c c0 t0 (nC + mC) (nT + mT) (fuel + more) k j =
      mergeFrom c c0 t0 nC nT fuel k j ++ mergeFrom c c0 t0 (nC + mC) (nT + mT) more (nC + 1) (nT + 1) := by
  obtain ⟨hticksFirst, hcyclesFirst⟩ := hdue
  induction fuel generalizing k j with
  | zero =>
    obtain ⟨rfl, rfl⟩ : k = nC + 1 ∧ j = nT + 1 := by omega
    rw [Nat.zero_add]; rfl
  | succ fuel ih =>
    rw [Nat.add_right_comm fuel 1]
    by_cases h : TickNext c c0 t0 nC nT k j
    · have hlonger : TickNext c c0 t0 (nC + mC) (nT + mT) k j :=
        ⟨Nat.le_add_right_of_le h.1, .inr (h.2.elim (fun hlast => hticksFirst k j hlast h.1) id)⟩
      rw [mergeFrom_of_tickNext h, mergeFrom_of_tickNext hlonger, List.cons_append,
        ih hk (Nat.succ_le_succ h.1) (by omega)]
    · have hcycle : k ≤ nC := le_of_not_tickNext hleft h
      have hlonger : ¬TickNext c c0 t0 (nC + mC) (nT + mT) k j := by
        rintro ⟨-, hlast | hfirst⟩
        · omega
        · exact hcyclesFirst k j hcycle (Nat.lt_of_not_le fun hle => h ⟨hle, .inr hfirst⟩) hfirst
      rw [mergeFrom_of_not_tickNext h, mergeFrom_of_not_tickNext hlonger, List.cons_append,
        ih (Nat.succ_le_succ hcycle) hj (by omega)]

/-- Accumulators `c1`, `t1` that leave the order of cycles and ticks as it was `dC` cycles and `dT` ticks on give the
merge from there. -/
theorem mergeFrom_shift {c1 t1 dC dT : Nat}
    (hsame : ∀ k j, 0 < k → 0 < j → tickFirst c c1 t1 k j = tickFirst c c0 t0 (dC + k) (dT + j))
    (hk : 0 < k) (hj : 0 < j) :
    mergeFrom c c1 t1 mC mT fuel k j = mergeFrom c c0 t0 (dC + mC) (dT + mT) fuel (dC + k) (dT + j) := by
  induction fuel generalizing k j with
  | zero => rfl
  | succ fuel ih =>
    have hguard : TickNext c c1 t1 mC mT k j ↔ TickNext c c0 t0 (dC + mC) (dT + mT) (dC + k) (dT + j) := by
      simp only [TickNext, hsame k j hk hj, Nat.add_le_add_iff_left, Nat.add_lt_add_iff_left]
    by_cases h : TickNext c c1 t1 mC mT k j
    · rw [mergeFrom_of_tickNext h, mergeFrom_of_tickNext (hguard.1 h), ih hk (Nat.succ_pos j), Nat.add_assoc]
    · rw [mergeFrom_of_not_tickNext h, mergeFrom_of_not_tickNext (mt hguard.2 h), ih (Nat.succ_pos k) hj, Nat.add_assoc]

/-- The schedule of a longer call is that of a first part of it, then that of the rest. -/
theorem schedule_append (hcfg : c.Ok) (c0 t0 dt mC mT : Nat) :
    schedule c c0 t0 (owedCount c0 dt c.cpuHz c.units + mC) (owedCount t0 dt timerHz c.units + mT) =
      schedule c c0 t0 (owedCount c0 dt c.cpuHz c.units) (owedCount t0 dt timerHz c.units) ++
        schedule c (owedRest c0 dt c.cpuHz c.units) (owedRest t0 dt timerHz c.units) mC mT := by
  unfold schedule
  rw [mergeFrom_shift (fun _ _ => tickFirst_owedRest hcfg.2 c0 t0 dt) Nat.one_pos Nat.one_pos, Nat.add_add_add_comm,
    mergeFrom_append (dueFirst_owedCount hcfg c0 t0 dt) (mC + mT) (by omega) (by omega) (by omega)]

end Slicing

/-- Settles O47: counts and remainders add up, and the steps the first call owes are those due first. -/
theorem slicingTimeDoesNotMatter : Obligations.SlicingTimeDoesNotMatter := by
  intro s a b hrun hcfg _ _
  have hrunAfter : (s.advance a).run ≠ .uninitialized := (changesOnly_advance s a .run (by decide)).symm ▸ hrun
  rw [State.advance_of_initialized hrunAfter, State.advance_of_initialized hrun, State.advance_of_initialized hrun]
  refine ⟨?_, owedRest_add a b, owedRest_add a b⟩
  dsimp only
  rw [owedCount_add hcfg.2, owedCount_add hcfg.2, schedule_append hcfg]

end Sys2Proof.Machine
end

section
/-! PROOFS. The host's reads and `reset()` (spec/46_host_interface.md R173, R176 to R178), and the block a failed
`initialize` leaves behind (R156, R171, R196). -/

namespace Sys2Proof.Machine

/-! ## The reads -/

/-- The display of an Uninitialized block reads all off (R176, D27). -/
theorem State.displaySnapshot_of_uninitialized {s : State} (h : s.run = .uninitialized) :
    s.displaySnapshot = DisplayBuffer.allOff := by
  simp only [State.displaySnapshot, h]

/-- The display of any other block reads as its buffer (R176). -/
theorem State.displaySnapshot_of_initialized {s : State} (h : s.run ≠ .uninitialized) : s.displaySnapshot = s.fb := by
  unfold State.displaySnapshot
  split
  next hrun => exact absurd hrun h
  all_goals rfl

/-- An Uninitialized block gives no sound, whatever its `ST` (R177, D27). -/
theorem State.soundActive_of_uninitialized {s : State} (h : s.run = .uninitialized) : s.soundActive = false := by
  simp only [State.soundActive, h]

/-! ## `initialize` with too long an image -/

/-- Settles O50: what the failed call writes, then the idle cycle and the reads of an Uninitialized block. -/
theorem tooLongImageLeavesUninitialized : Obligations.TooLongImageLeavesUninitialized := by
  intro s bytes
  refine ⟨fun hlong => ?_,
    fun h => ⟨State.displaySnapshot_of_uninitialized h, State.soundActive_of_uninitialized h⟩,
    State.displaySnapshot_of_initialized, rfl, fun _ _ _ _ => ⟨rfl, rfl, rfl, rfl, rfl⟩⟩
  have hrun : (s.load bytes).run = .uninitialized := by rw [State.load_error hlong]
  have hidle : cycle (s.load bytes) = .next (s.load bytes) := cycle_of_not_running (hrun ▸ by decide)
  have hdark := State.displaySnapshot_of_uninitialized hrun
  have hsilent := State.soundActive_of_uninitialized hrun
  refine ⟨hrun, ?_, ?_, ?_, hdark, hsilent, hidle⟩ <;> rw [State.load_error hlong]

/-! ## `reset()` -/

/-- On an Uninitialized block `reset()` does nothing (R173, D14). -/
theorem State.hostReset_of_uninitialized {s : State} (h : s.run = .uninitialized) : s.hostReset = s := by
  simp only [State.hostReset, h]

/-- On any other block `reset()` re-creates it with the retained image (R173). -/
theorem State.hostReset_of_initialized {s : State} (h : s.run ≠ .uninitialized) : s.hostReset = s.recreate s.image := by
  unfold State.hostReset
  split
  next hrun => exact absurd hrun h
  all_goals rfl

/-- Settles O51: the retained image fits, so `initialize` accepts it and re-creates the block, as `reset()` does. -/
theorem resetReinitializes : Obligations.ResetReinitializes := by
  intro s hfits
  refine ⟨fun h => ?_, State.hostReset_of_uninitialized⟩
  rw [State.hostReset_of_initialized h, State.load_ok hfits]

end Sys2Proof.Machine
end

section
/-! PROOFS. Errors and the Halted state (spec/60_exceptions.md R190 to R202): no step stops, a failing instruction or an
unknown word does nothing but halt the engine, and Halted lasts until the host's `reset` or `initialize`. -/

namespace Sys2Proof.Machine

/-! ## Every step answers a next state -/

/-- Settles O11: a cycle answers a next state whatever it runs, and so does every other event. -/
theorem everyStepAnswersAState : Obligations.EveryStepAnswersAState := by
  intro s
  unfold step
  cases s.nextEvent with
  | cycle =>
    obtain ⟨t, hcycle, -⟩ := keepsHostSide_cycle s.popEvent
    exact ⟨t, hcycle⟩
  | tick | host | idle => exact ⟨_, rfl⟩

/-! ## Taking an error -/

/-- A fetched word that decodes to nothing halts the engine (R195). -/
theorem fetchExecute_of_decode_error {s : State} {r : Reject} (hpc : s.pc.toNat ≤ 0xFFE)
    (hdec : decode s.cfg.bnnnMode s.wordAtPc = .error r) :
    fetchExecute s = .next (s.haltedBy (.unknownOpcode s.pc s.wordAtPc)) := by
  rw [fetchExecute, guardRange_ok (.inr (by omega)), execWord, hdec]
  rfl

/-- Settles O7: the decoder rejects the word, which is still what the fetch reads once the cycle is off its list. -/
theorem unknownWordHalts : Obligations.UnknownWordHalts := by
  intro s hfetch hpc hnone
  have hreject : decode s.cfg.bnnnMode s.wordAtPc = .error (.unknownOpcode s.wordAtPc) :=
    (decodeAcceptsExactlyTheRows _ _).2 hnone
  have hhalt := fetchExecute_of_decode_error (s := s.popEvent) (by simpa using hpc)
    (by rwa [State.popEvent_cfg, State.wordAtPc_popEvent])
  rwa [State.popEvent_pc, State.wordAtPc_popEvent, ← step_of_atFetch hfetch] at hhalt

/-- Where a range check finds an error, it halts the engine with it (R192, R198). -/
theorem guardRange_of_error {s : State} {base n : Nat} {e : ErrorRecord} (h : rangeError s base n = some e)
    (go : Result) : guardRange s base n go = .next (s.haltedBy e) := by
  simp only [guardRange_eq, h, halt_eq_haltedBy]

/-- Settles O12: the stack and mode errors by the failing side of their instruction, the others by the range check. -/
theorem errorsArePrecise : Obligations.ErrorsArePrecise := by
  intro i s e herr
  cases i with
  | ret =>
    obtain ⟨hempty, ⟨⟩⟩ := Option.ite_none_right_eq_some.1 herr
    exact execRet_of_empty hempty
  | callAddr nnn =>
    obtain ⟨hfull, ⟨⟩⟩ := Option.ite_none_right_eq_some.1 herr
    exact execCallAddr_of_full nnn hfull
  | jpV0 nnn =>
    obtain ⟨hillegal, ⟨⟩⟩ := Option.ite_none_right_eq_some.1 herr
    exact execJpV0_of_illegal nnn hillegal
  | drw | ldBVx | ldMemVx | ldVxMem => exact guardRange_of_error herr _
  | _ => cases herr

/-! ## Halted lasts -/

/-- What a step from Halted changes, unless it is a `reset` or an `initialize`: a cycle is idle, and no other event
touches what belongs to the program (R197, R202). -/
theorem changesOnly_step_of_halted {s t : State} (hhalted : s.run = .halted) (hreset : s.nextEvent ≠ .host .reset)
    (hload : ∀ bytes, s.nextEvent ≠ .host (.load bytes)) (hstep : step s = .next t) :
    ChangesOnly s t [.DT, .ST, .keys, .edge, .cpuAcc, .tmrAcc, .slots, .inbox] := by
  by_cases hcycle : s.nextEvent = .cycle
  · rw [idleCycleChangesNothing s hcycle (by simp [hhalted])] at hstep
    cases hstep
    exact (changesOnly_slots s s.slots.tail).mono (by decide)
  · exact onlyTheEngineChangesProgramState s t hcycle hreset hload hstep

/-- Settles O52: `run` and `err` are outside the frame of the step. -/
theorem haltedUntilTheHostResets : Obligations.HaltedUntilTheHostResets := by
  intro s t hhalted hreset hload hstep
  have hframe := changesOnly_step_of_halted hhalted hreset hload hstep
  have hrun : t.run = s.run := hframe .run (by decide)
  exact ⟨hrun.trans hhalted, hframe .err (by decide), hframe⟩

end Sys2Proof.Machine
end
